-- ==== Sys2Proof/Config.lean ====
section
/-! DEFINITION. What an implementation of the block fixes: the parameters the spec leaves open (00_scope.md R9). -/

namespace Sys2Proof

/-- The open parameters of R9. They are named arguments of the model: `State` carries them, no step changes
them, and a statement over every state is a statement for every value of them. `P_N_INST` has its one home in the
length of the state's list of instances. -/
structure Params where
  /-- `P_BUF_CAP`, the capacity of the accumulation buffer in bytes; `none` is the unbounded buffer (R9, D3). -/
  bufCap : Option Nat
  /-- `P_CH_W`, the width of a channel identifier in bits (R9, D4). -/
  chW : Nat
  /-- `P_INIT_SENDS_MODE`: whether INIT transmits the set-mode frame (R192, D10). -/
  initSendsMode : Bool
  /-- `P_INIT_CHECKS_MODE_WRITE`: whether INIT fails when that write reports zero bytes (R192, D10). -/
  initChecksModeWrite : Bool
  deriving DecidableEq, Repr

/-- What R9 asks of the parameters: `P_BUF_CAP ≥ 32` or unbounded, and `1 ≤ P_CH_W ≤ 8`. -/
def Params.wf (p : Params) : Bool :=
  (match p.bufCap with
    | none => true
    | some c => decide (32 ≤ c)) && decide (1 ≤ p.chW) && decide (p.chW ≤ 8)

/-- The parameters `State.reset` is given. DESIGN CHOICE, unsafe (log 8): the spec leaves all four open; the buffer
is unbounded, "the software-faithful value" of R9, the channel is as wide as its byte, and INIT sends and checks the
mode write, as the vectors of 95_test_vectors.md §2.5 do unless they say otherwise. -/
def Config.resetParams : Params :=
  { bufCap := none, chW := 8, initSendsMode := true, initChecksModeWrite := true }

/-- The number of instances (`P_N_INST`) of `State.reset`. DESIGN CHOICE, unsafe (log 8): the spec asks only for at
least one; two let the multiplexing of R163 be run. -/
def Config.resetInstances : Nat := 2

end Sys2Proof
end

