-- ==== Sys2Proof/Word.lean ====
section
/-! DEFINITION. The widths of the block: bytes, 16-bit fields, channel identifiers (spec 00_scope.md R11, R13; 10_state.md R22). -/

namespace Sys2Proof

/-- A byte, an unsigned 8-bit value (R11). -/
abbrev Byte := BitVec 8

/-- A 16-bit field of a frame (R47). -/
abbrev Half := BitVec 16

/-- A channel identifier. It travels in the `CH` byte of a transaction, of which the low `P_CH_W` bits
count and the others are 0 (R71), so it is held as a byte; only equality is ever tested on it (R22). -/
abbrev Channel := BitVec 8

end Sys2Proof
end

