-- ==== Sys2Proof/Syntax.lean ====
section
/-! DEFINITION. The instructions of the block: one constructor for each row of spec/opcode_table.json. -/

namespace Sys2Proof

/-- The mode operand of INIT and SET_MODE (R70): 0 passive, 1 active. -/
inductive Mode where
  | passive
  | active
  deriving DecidableEq, Repr

/-- The measurement record, twelve unsigned 16-bit fields in the order of R140. -/
structure Record where
  pm1_0_cf1 : Half
  pm2_5_cf1 : Half
  pm10_0_cf1 : Half
  pm1_0_atm : Half
  pm2_5_atm : Half
  pm10_0_atm : Half
  cnt_0_3 : Half
  cnt_0_5 : Half
  cnt_1_0 : Half
  cnt_2_5 : Half
  cnt_5_0 : Half
  cnt_10_0 : Half
  deriving DecidableEq, Repr

/-- The operands of a data frame (R60): everything but its fixed marker. -/
structure DataFrame where
  /-- offsets 2 to 3, the frame body length, "unused by decoder" (R62) -/
  len : Half
  /-- offsets 4 to 27, the twelve measurement fields -/
  fields : Record
  /-- offsets 28 to 29, "reserved/version+error-code bytes (not decoded)" (R63) -/
  res : Half
  /-- offsets 30 to 31, the checksum field, whether or not it matches -/
  checksum : Half
  deriving DecidableEq, Repr

/-- The three encodings of 30_encoding.md: the "format" column of spec/opcode_table.json. Their bytes overlap (a host
header 0x42 is illegal, R73, and both kinds of frame start with it, R61), so bytes are read in one of them (log 1). -/
inductive Format where
  /-- host transactions, R70 to R73 -/
  | htx
  /-- 7-byte command frames, R65 to R68 -/
  | cmd7
  /-- 32-byte data frames, R60 to R64 -/
  | data32
  deriving DecidableEq, Repr

/-- The five command frames by name (R67): constants of the block (R27). -/
inductive Command where
  | setPassive
  | setActive
  | requestRead
  | sleep
  | wakeup
  deriving DecidableEq, Repr

/-- The rows of spec/opcode_table.json. -/
inductive Instr where
  /-- INIT (R190) -/
  | init (ch : Channel) (sink : Bool) (mode : Mode)
  /-- NOTIFY (R160) -/
  | notify (ch : Channel) (data : List Byte)
  /-- SET_MODE (R195) -/
  | setMode (mode : Mode)
  /-- SLEEP (R196) -/
  | sleep
  /-- WAKEUP (R197) -/
  | wakeup
  /-- REQUEST_READ (R198) -/
  | requestRead
  /-- CMD_SET_PASSIVE (R67) -/
  | cmdSetPassive
  /-- CMD_SET_ACTIVE (R67) -/
  | cmdSetActive
  /-- CMD_REQUEST_READ (R67) -/
  | cmdRequestRead
  /-- CMD_SLEEP (R67) -/
  | cmdSleep
  /-- CMD_WAKEUP (R67) -/
  | cmdWakeup
  /-- DATA_FRAME (R60) -/
  | dataFrame (f : DataFrame)
  deriving DecidableEq, Repr

/-- The encoding of an instruction: the "format" column of spec/opcode_table.json. -/
def Instr.format : Instr → Format
  | .init _ _ _ => .htx
  | .notify _ _ => .htx
  | .setMode _ => .htx
  | .sleep => .htx
  | .wakeup => .htx
  | .requestRead => .htx
  | .cmdSetPassive => .cmd7
  | .cmdSetActive => .cmd7
  | .cmdRequestRead => .cmd7
  | .cmdSleep => .cmd7
  | .cmdWakeup => .cmd7
  | .dataFrame _ => .data32

/-- The row of a command frame. -/
def Command.instr : Command → Instr
  | .setPassive => .cmdSetPassive
  | .setActive => .cmdSetActive
  | .requestRead => .cmdRequestRead
  | .sleep => .cmdSleep
  | .wakeup => .cmdWakeup

/-- The command frame whose row an instruction is, if it is one. -/
def Instr.command : Instr → Option Command
  | .init _ _ _ => none
  | .notify _ _ => none
  | .setMode _ => none
  | .sleep => none
  | .wakeup => none
  | .requestRead => none
  | .cmdSetPassive => some .setPassive
  | .cmdSetActive => some .setActive
  | .cmdRequestRead => some .requestRead
  | .cmdSleep => some .sleep
  | .cmdWakeup => some .wakeup
  | .dataFrame _ => none

end Sys2Proof
end

