-- ==== Sys2Proof/Machine/Operands.lean ====
section
/-! DEFINITION. Operand forms: big-endian fields, channel identifiers, the marker, the frames as bytes
(00_scope.md R8, R13; 20_memory.md R43, R47; 30_encoding.md R60, R66, R67, R71, R74). -/

namespace Sys2Proof.Machine

/-- `FRAME_LEN` (R8). -/
def frameLen : Nat := 32

/-- `CMD_LEN` (R8). -/
def cmdLen : Nat := 7

/-- `MARK0` (R8, R61). -/
def mark0 : Byte := 0x42#8

/-- `MARK1` (R8, R61). -/
def mark1 : Byte := 0x4D#8

/-- Big-endian composition of two bytes: `(hi << 8) | lo` (R13, R47). -/
def be16 (hi lo : Byte) : Half := hi ++ lo

/-- The two bytes `x[15:8] x[7:0]`, the more significant first (R47, R74). -/
def beBytes (x : Half) : List Byte := [x.extractLsb' 8 8, x.extractLsb' 0 8]

/-- Byte `k` of a frame, `F[k]` (R13); every use has `k` below the frame's length. -/
def byteAt (F : List Byte) (k : Nat) : Byte := F.getD k 0#8

/-- `be16(F, o)`, the 16-bit big-endian field at offset `o` of a frame (R13). -/
def be16At (F : List Byte) (o : Nat) : Half := be16 (byteAt F o) (byteAt F (o + 1))

/-- `CH[7:P_CH_W]` is 0 (R71): the byte is a channel identifier of `chW` bits. -/
def channelFits (chW : Nat) (ch : Channel) : Bool := decide (ch.toNat < 2 ^ chW)

/-- The mode bit `M` (R70, D14): 0 passive, 1 active. -/
def modeBit : Mode → Bool
  | .passive => false
  | .active => true

/-- The mode a bit `M` stands for (R70). -/
def modeOfBit (m : Bool) : Mode := if m then .active else .passive

/-- set passive mode, R67 -/
def setPassiveFrame : List Byte := [0x42#8, 0x4D#8, 0xE1#8, 0x00#8, 0x00#8, 0x01#8, 0x70#8]

/-- set active mode, R67 -/
def setActiveFrame : List Byte := [0x42#8, 0x4D#8, 0xE1#8, 0x00#8, 0x01#8, 0x01#8, 0x71#8]

/-- request read, R67 -/
def requestReadFrame : List Byte := [0x42#8, 0x4D#8, 0xE2#8, 0x00#8, 0x00#8, 0x01#8, 0x71#8]

/-- sleep, R67 -/
def sleepFrame : List Byte := [0x42#8, 0x4D#8, 0xE4#8, 0x00#8, 0x00#8, 0x01#8, 0x73#8]

/-- wakeup, R67 -/
def wakeupFrame : List Byte := [0x42#8, 0x4D#8, 0xE4#8, 0x00#8, 0x01#8, 0x01#8, 0x74#8]

/-- The five sequences the core can emit (R67, R68). -/
def commandFrames : List (List Byte) :=
  [setPassiveFrame, setActiveFrame, requestReadFrame, sleepFrame, wakeupFrame]

/-- `MODE_FRAME(mode)` of R190: the set-mode frame of a mode. -/
def modeFrame : Mode → List Byte
  | .passive => setPassiveFrame
  | .active => setActiveFrame

/-- The command code of a command frame, offset 2 (R66). -/
def cmdCode (C : List Byte) : Byte := byteAt C 2

/-- The command data of a command frame, offsets 3 to 4 (R66). -/
def cmdData (C : List Byte) : Half := be16At C 3

/-- The checksum of a command frame, offsets 5 to 6 (R66). -/
def cmdChecksum (C : List Byte) : Half := be16At C 5

/-- The fields of a record in the order of R140, field 0 first. -/
def recordList (r : Record) : List Half :=
  [r.pm1_0_cf1, r.pm2_5_cf1, r.pm10_0_cf1, r.pm1_0_atm, r.pm2_5_atm, r.pm10_0_atm,
   r.cnt_0_3, r.cnt_0_5, r.cnt_1_0, r.cnt_2_5, r.cnt_5_0, r.cnt_10_0]

/-- Fields side by side as one number, the first in the least significant 16 bits (R145). -/
def packFields : List Half → Nat
  | [] => 0
  | v :: vs => v.toNat + 2 ^ 16 * packFields vs

/-- The 192-bit `REC_OUT` bus: field `j` of R140 at bits `16j+15..16j` (R145). -/
def recordPack (r : Record) : BitVec 192 := BitVec.ofNat 192 (packFields (recordList r))

/-- The 30 bytes of a data frame that its checksum covers, offsets 0 to 29 (R60, R123). -/
def frameBody (f : DataFrame) : List Byte :=
  [mark0, mark1] ++ beBytes f.len ++ (recordList f.fields).flatMap beBytes ++ beBytes f.res

/-- The 32 bytes of a data frame, offset 0 first (R60). -/
def frameBytes (f : DataFrame) : List Byte := frameBody f ++ beBytes f.checksum

/-- The unbounded sum of a byte sequence (R120, R121). -/
def byteSum (bs : List Byte) : Nat := (bs.map BitVec.toNat).sum

/-- The pseudo-operand `FRAME(v0, ..., v11; len, res, adj)` of R74: the checksum field is `(S + adj) mod 65536`, where
`S` is the sum of the first 30 bytes. -/
def buildFrame (r : Record) (len : Half := 0x001C#16) (res : Half := 0x9700#16) (adj : Nat := 0) : DataFrame :=
  { len := len, fields := r, res := res,
    checksum := BitVec.ofNat 16
      (byteSum (frameBody { len := len, fields := r, res := res, checksum := 0#16 }) + adj) }

end Sys2Proof.Machine
end

