-- ==== Sys2Proof/Machine/Extractor.lean ====
section
/-! DEFINITION. The three pure components of the receive path: Frame Locator (40_frame_locator.md), Checksum Validator
(41_checksum_validator.md), Field Decoder (42_field_decoder.md). -/

namespace Sys2Proof.Machine

/-- The scan of R101 from position `p` on, over the bytes from `p` to the end of the buffer: the pairs `(i-1, i)` are
visited in increasing `i`; a marker with fewer than 32 bytes from it to the end does not end the scan (R103). -/
def locateFrom (p : Nat) : List Byte → Option Nat
  | a :: b :: rest =>
    if a = mark0 ∧ b = mark1 ∧ frameLen ≤ rest.length + 2 then some p
    else locateFrom (p + 1) (b :: rest)
  | _ => none

/-- LOCATE (R100, R101): the position of the candidate frame, or `none` for `NOT_FOUND`. Fewer than two bytes give
`NOT_FOUND` without a read (R102). -/
def locate (B : List Byte) : Option Nat := locateFrom 0 B

/-- The buffer addresses the scan of `locateFrom` reads, in order: two for each pair it visits (R46, R174). -/
def scanReadsFrom (p : Nat) : List Byte → List Nat
  | a :: b :: rest =>
    if a = mark0 ∧ b = mark1 ∧ frameLen ≤ rest.length + 2 then [p, p + 1]
    else p :: (p + 1) :: scanReadsFrom (p + 1) (b :: rest)
  | _ => []

/-- The buffer addresses LOCATE reads (R46, R174; log 24). -/
def scanReads (B : List Byte) : List Nat := scanReadsFrom 0 B

/-- The frame at position `p`, `F = B[p .. p+31]` (R43, R108). -/
def frameAt (B : List Byte) (p : Nat) : List Byte := (B.drop p).take frameLen

/-- The running sum of CHECKSUM_OK: offsets 0 to 29, an unbounded natural number (R121, R123). -/
def checksumSum (F : List Byte) : Nat := byteSum (F.take 30)

/-- CHECKSUM_OK (R120): the sum equals the big-endian field at 30 to 31, as natural numbers (R122). -/
def checksumOk (F : List Byte) : Bool := decide (checksumSum F = (be16At F 30).toNat)

/-- DECODE (R140): field `j` is `be16(F, 4 + 2j)`. -/
def decodeRecord (F : List Byte) : Record :=
  { pm1_0_cf1 := be16At F 4
    pm2_5_cf1 := be16At F 6
    pm10_0_cf1 := be16At F 8
    pm1_0_atm := be16At F 10
    pm2_5_atm := be16At F 12
    pm10_0_atm := be16At F 14
    cnt_0_3 := be16At F 16
    cnt_0_5 := be16At F 18
    cnt_1_0 := be16At F 20
    cnt_2_5 := be16At F 22
    cnt_5_0 := be16At F 24
    cnt_10_0 := be16At F 26 }

/-- The offsets of a frame that CHECKSUM_OK sums (R120, R174: 30 bytes). -/
def checksumReads : List Nat := List.range 30

/-- The offsets of a frame that DECODE reads (R143, R174: 24 bytes). -/
def decodeReads : List Nat := (List.range 24).map (4 + ·)

end Sys2Proof.Machine
end

