-- ==== Sys2Proof/WellFormed.lean ====
section
/-! DEFINITION. Which instructions have an encoding (30_encoding.md R71). -/

namespace Sys2Proof

/-- An instruction is well formed for channels of `chW` bits when its operands fit their fields (R71): a channel
identifier in the low `P_CH_W` bits of `CH`, a payload length in the 16 bits of `NLEN`. Every other operand is of the
width of its field. -/
def Instr.wf (chW : Nat) : Instr → Bool
  | .init ch _ _ => Machine.channelFits chW ch
  | .notify ch data => Machine.channelFits chW ch && decide (data.length < 65536)
  | .setMode _ => true
  | .sleep => true
  | .wakeup => true
  | .requestRead => true
  | .cmdSetPassive => true
  | .cmdSetActive => true
  | .cmdRequestRead => true
  | .cmdSleep => true
  | .cmdWakeup => true
  | .dataFrame _ => true

end Sys2Proof
end

