-- ==== Sys2Proof/Decode.lean ====
section
/-! DEFINITION. The decoder of the three encodings of 30_encoding.md, total on any bytes, and the encoder. -/

namespace Sys2Proof

open Machine

/-- Why bytes spell no instruction. -/
inductive DecodeError where
  /-- `op` 6 or 7 (R73) -/
  | reservedOp
  /-- `H[7:5] ≠ 0` (R73) -/
  | reservedBits
  /-- `M` or `S` set where it must be 0 (R73) -/
  | misplacedBit
  /-- a `CH` byte with a bit set at or above `P_CH_W` (R73) -/
  | channelTooWide
  /-- the bytes end before the transaction does (R73; log 18) -/
  | truncated
  /-- read as a command frame, none of the five of R67 (log 21) -/
  | notACommandFrame
  /-- read as a data frame, fewer than 32 bytes or no marker (log 21) -/
  | notADataFrame
  deriving DecidableEq, Repr

/-- `op = H[2:0]` (R70) -/
def headerOp (h : Byte) : Nat := (h.extractLsb' 0 3).toNat

/-- `M = H[3]` (R70) -/
def headerM (h : Byte) : Bool := h.getLsbD 3

/-- `S = H[4]` (R70) -/
def headerS (h : Byte) : Bool := h.getLsbD 4

/-- `H[7:5]`, reserved, must be 0 (R70) -/
def headerReserved (h : Byte) : Nat := (h.extractLsb' 5 3).toNat

/-- INIT's body: `CH` (R70, R72). -/
def decodeInit (chW : Nat) (h : Byte) : List Byte → Except DecodeError (Instr × List Byte)
  | ch :: rest =>
    if channelFits chW ch then .ok (.init ch (headerS h) (modeOfBit (headerM h)), rest)
    else .error .channelTooWide
  | [] => .error .truncated

/-- NOTIFY's body: `CH`, `NLEN` big-endian, `NLEN` payload bytes, earliest first (R70, R71, R72). -/
def decodeNotify (chW : Nat) : List Byte → Except DecodeError (Instr × List Byte)
  | ch :: n1 :: n0 :: rest =>
    if channelFits chW ch then
      if rest.length < (be16 n1 n0).toNat then .error .truncated
      else .ok (.notify ch (rest.take (be16 n1 n0).toNat), rest.drop (be16 n1 n0).toNat)
    else .error .channelTooWide
  | _ => .error .truncated

/-- A transaction that is its header alone and allows neither `M` nor `S` (R70, R72). -/
def decodePlain (h : Byte) (i : Instr) (body : List Byte) : Except DecodeError (Instr × List Byte) :=
  if headerM h || headerS h then .error .misplacedBit else .ok (i, body)

/-- One host transaction from the front of a byte sequence, and the bytes after it (R70 to R73). -/
def decodeHost (chW : Nat) : List Byte → Except DecodeError (Instr × List Byte)
  | [] => .error .truncated
  | h :: body =>
    if headerReserved h ≠ 0 then .error .reservedBits
    else match headerOp h with
      | 0 => decodeInit chW h body
      | 1 => if headerM h || headerS h then .error .misplacedBit else decodeNotify chW body
      | 2 => if headerS h then .error .misplacedBit else .ok (.setMode (modeOfBit (headerM h)), body)
      | 3 => decodePlain h .sleep body
      | 4 => decodePlain h .wakeup body
      | 5 => decodePlain h .requestRead body
      | _ => .error .reservedOp

/-- One command frame from the front of a byte sequence (R67, R68): which constant the bytes name. No instance reads bytes
so (R44); an opcode-table word is read so (log 1). -/
def decodeCommand (bs : List Byte) : Except DecodeError (Instr × List Byte) :=
  if bs.take cmdLen = setPassiveFrame then .ok (.cmdSetPassive, bs.drop cmdLen)
  else if bs.take cmdLen = setActiveFrame then .ok (.cmdSetActive, bs.drop cmdLen)
  else if bs.take cmdLen = requestReadFrame then .ok (.cmdRequestRead, bs.drop cmdLen)
  else if bs.take cmdLen = sleepFrame then .ok (.cmdSleep, bs.drop cmdLen)
  else if bs.take cmdLen = wakeupFrame then .ok (.cmdWakeup, bs.drop cmdLen)
  else .error .notACommandFrame

/-- The operands of 32 frame bytes (R60). -/
def parseFrame (F : List Byte) : DataFrame :=
  { len := be16At F 2, fields := decodeRecord F, res := be16At F 28, checksum := be16At F 30 }

/-- One data frame from the front of a byte sequence: 32 bytes that start with the marker (R60, R61). An
opcode-table word is read so (log 2). -/
def decodeSerial (bs : List Byte) : Except DecodeError (Instr × List Byte) :=
  if frameLen ≤ bs.length ∧ byteAt bs 0 = mark0 ∧ byteAt bs 1 = mark1 then
    .ok (.dataFrame (parseFrame (bs.take frameLen)), bs.drop frameLen)
  else .error .notADataFrame

/-- The decoder: one instruction from the front of bytes of one encoding, and the bytes after it. -/
def decode (chW : Nat) : Format → List Byte → Except DecodeError (Instr × List Byte)
  | .htx, bs => decodeHost chW bs
  | .cmd7, bs => decodeCommand bs
  | .data32, bs => decodeSerial bs

/-- The header byte `op | M << 3 | S << 4` (R70, R190, R195). -/
def header (op : Nat) (m s : Bool) : Byte := BitVec.ofNat 8 (op + 8 * m.toNat + 16 * s.toNat)

/-- The encoder: the bytes of an instruction, offset 0 first (R60, R67, R70). -/
def encode : Instr → List Byte
  | .init ch sink mode => [header 0 (modeBit mode) sink, ch]
  | .notify ch data => [header 1 false false, ch] ++ beBytes (BitVec.ofNat 16 data.length) ++ data
  | .setMode mode => [header 2 (modeBit mode) false]
  | .sleep => [header 3 false false]
  | .wakeup => [header 4 false false]
  | .requestRead => [header 5 false false]
  | .cmdSetPassive => setPassiveFrame
  | .cmdSetActive => setActiveFrame
  | .cmdRequestRead => requestReadFrame
  | .cmdSleep => sleepFrame
  | .cmdWakeup => wakeupFrame
  | .dataFrame f => frameBytes f

/-- How many bytes an instruction takes (R66, R60, R72). -/
def Instr.size : Instr → Nat
  | .init _ _ _ => 2
  | .notify _ data => 4 + data.length
  | .setMode _ => 1
  | .sleep => 1
  | .wakeup => 1
  | .requestRead => 1
  | .cmdSetPassive => 7
  | .cmdSetActive => 7
  | .cmdRequestRead => 7
  | .cmdSleep => 7
  | .cmdWakeup => 7
  | .dataFrame _ => 32

/-- The bytes of an opcode-table word: the table writes a row's bytes as one number, offset 0 in its most
significant byte ("bytes offset 0 first", `42 4D ...` is 0x424D...), so the word is laid out from its top byte down,
and zero bytes follow up to the longest fixed-length instruction (log 3). -/
def tableBytes (nbits w : Nat) : List Byte :=
  ((List.range (nbits / 8)).map fun k => BitVec.ofNat 8 (w >>> (8 * (nbits / 8 - 1 - k))))
    ++ List.replicate (frameLen - nbits / 8) 0#8

/-- The encoding of an opcode-table word: the "format" of the row, which its width tells (htx 8 bits, cmd7 56 bits,
data32 its 16 marker bits or all 256 bits; log 3). -/
def tableFormat (nbits : Nat) : Format :=
  if nbits = 56 then .cmd7
  else if nbits = 16 ∨ nbits = 256 then .data32
  else .htx

/-- The instruction the decoder reads from an opcode-table word, with the channel width of `State.reset`. -/
def decodeTableWord (nbits w : Nat) : Option Instr :=
  match decode Config.resetParams.chW (tableFormat nbits) (tableBytes nbits w) with
  | .ok (i, _) => some i
  | .error _ => none

end Sys2Proof
end

