-- ==== Sys2Proof/Machine/State.lean ====
section
/-! DEFINITION. The state of a system of core instances (10_state.md R20, R32, R33; 70_reset_and_hazards.md R250), the
host's events, and the reasons a step can stop. -/

namespace Sys2Proof.Machine

/-- Why the machine stops with a fault. The block itself raises no exception (R220); each of these is a point about
which the model claims nothing. -/
inductive Fault where
  /-- Raised by an operation, an acceptance or a reset addressed to an instance the system does not have. Safe: no host
  can present anything to it (log 16). -/
  | noSuchInstance
  /-- Raised by a read of a buffer byte that nothing has written. Safe: its contents are unspecified (R20), and R46 says
  that such a read never occurs (log 10). -/
  | unwrittenByte
  /-- Raised by a reset of an instance on which an operation is in progress. Safe: such a reset has no meaning (R251, D31;
  log 15). -/
  | resetInProgress
  deriving DecidableEq, Repr

/-- Why an operation is given no meaning: the five refusals of R238, and the name the host asks for. -/
inductive Refusal where
  /-- ILLEGAL_ENCODING (R73), raised by the fetch of a host transaction. Safe (D2). -/
  | illegalEncoding
  /-- BUFFER_CAPACITY (R52), raised by NOTIFY. Safe (D3). -/
  | bufferCapacity
  /-- REINIT (R193), raised by INIT. Safe (D9). -/
  | reinit
  /-- REENTRANT (R229), raised by every operation on an instance whose NOTIFY waits for its consumer. Safe (D19). -/
  | reentrant
  /-- SHARED_CHANNEL (R233), raised by the INIT that would configure a second instance for a channel. Safe (D26). -/
  | sharedChannel
  /-- Raised by no instruction of this model: an instruction without a meaning. Safe. -/
  | notModelled (mnemonic : String)
  deriving DecidableEq, Repr

/-- The result of a caller's operation (R222). -/
inductive OpResult where
  | ok
  | fail
  deriving DecidableEq, Repr

/-- The diagnostic status of a completed NOTIFY (R173). -/
inductive NotifyStatus where
  | ignoredUnconfigured
  | ignoredChannel
  | ignoredEmpty
  | framingError
  | integrityError
  | delivered
  deriving DecidableEq, Repr

/-- The buffer space: (address, byte) pairs in rising order of address (R40). -/
abbrev Memory := List Host.Cell

/-- One core instance: the elements of R20 and the outputs of R33. -/
structure Instance where
  /-- `CFG_VALID` (R21) -/
  cfgValid : Bool
  /-- `CFG_CHANNEL` (R22) -/
  cfgChannel : Channel
  /-- `BUF` (R20, R40) -/
  buf : Memory
  /-- `BUF_LEN` (R20, R24) -/
  bufLen : Nat
  /-- `REC_OUT`: the record offered to the consumer, during delivery; `none` outside delivery, where it is not readable
  and no record is kept (R20, R25; log 12). While it is present a NOTIFY is in progress (R172, R229). -/
  recOut : Option Record
  /-- the delivery trace, oldest first (R33 (1)) -/
  deliveries : List Record
  /-- the transmit trace, oldest first (R33 (2)) -/
  transmits : List (Channel × List Byte)
  /-- the results of the caller's operations, oldest first (R33 (3)) -/
  results : List OpResult
  /-- the diagnostic statuses of the completed NOTIFYs, oldest first (R33 (4)) -/
  statuses : List NotifyStatus
  deriving DecidableEq, Repr

/-- The host draws of one operation (R10): values from outside the core, under no law but `written ≤ 7` (log 5). -/
structure Answers where
  /-- `dev_cfg_ok`, answered at INIT -/
  devCfgOk : Bool
  /-- `written`, 0 to 7, answered at a command write -/
  written : Fin 8
  /-- whether the consumer accepts a record as soon as it is offered; where not, it accepts at a later event or never (R172) -/
  accepts : Bool
  deriving DecidableEq, Repr

/-- What the host does to the system (log 4). -/
inductive Event where
  /-- bytes of host transactions presented to an instance, with the draws of the operation (R69 to R71, R10); no other bytes
  enter the block -/
  | present (inst : Nat) (bytes : List Byte) (answers : Answers)
  /-- one of the five command frames, a constant of the block (R27), is to be handed over, with the draws of the
  operation: the command operation whose frame it is, by the name of its frame (R194; log 1). No byte enters the block. -/
  | emit (inst : Nat) (command : Command) (answers : Answers)
  /-- a data frame arrives alone in one notification on the instance's own channel, with the draws of the operation: the
  NOTIFY of its 32 bytes, by the frame (log 2) -/
  | arrive (inst : Nat) (frame : DataFrame) (answers : Answers)
  /-- the consumer of an instance accepts the record it is offered (R172) -/
  | accept (inst : Nat)
  /-- an instance is reset (R250, R251) -/
  | reset (inst : Nat)
  deriving DecidableEq, Repr

/-- The state of the system. -/
structure State where
  /-- the open parameters (R9), which no step changes -/
  params : Params
  /-- the instances; their number is `P_N_INST` (R232) -/
  insts : List Instance
  /-- the host's events not yet taken, in the order the host issues them (R223, R227) -/
  pending : List Event
  /-- the instance the running operation is presented to (R71) -/
  cur : Nat
  /-- the host draws of the running operation (R10) -/
  answers : Answers
  /-- the refusal mark, kept for the whole run once set (R12, R238; log 13) -/
  refusalMark : Option Refusal
  deriving DecidableEq, Repr

/-- An instance after reset (R250). `CFG_CHANNEL` is 0, a DESIGN CHOICE (log 9), unsafe; no byte of `BUF` is written
(log 10); `REC_OUT` holds no record (log 12). -/
def Instance.reset : Instance :=
  { cfgValid := false, cfgChannel := 0#8, buf := [], bufLen := 0, recOut := none,
    deliveries := [], transmits := [], results := [], statuses := [] }

/-- The draws `State.reset` holds before any operation has run. DESIGN CHOICE (log 5), unsafe: no statement rests on them. -/
def Answers.reset : Answers := { devCfgOk := false, written := 0, accepts := false }

/-- A system of `n` instances with parameters `p` after reset (R250), with nothing issued by the host yet. -/
def State.resetWith (p : Params) (n : Nat) : State :=
  { params := p, insts := List.replicate n Instance.reset, pending := [], cur := 0,
    answers := Answers.reset, refusalMark := none }

/-- The machine right after reset (R250), with the parameters of `Config` (log 8). -/
def State.reset : State := State.resetWith Config.resetParams Config.resetInstances

end Sys2Proof.Machine
end

