-- ==== Sys2Proof/Machine/Flags.lean ====
section
/-! DEFINITION. The block has no flags (10_state.md R30): what stands in their place, results, statuses and error classes
(60_exceptions.md R221, R222; 43_stream_dispatcher.md R173). -/

namespace Sys2Proof.Machine

/-- The code of a NOTIFY status (R173). -/
def statusCode : NotifyStatus → Nat
  | .ignoredUnconfigured => 0
  | .ignoredChannel => 1
  | .ignoredEmpty => 2
  | .framingError => 3
  | .integrityError => 4
  | .delivered => 5

/-- The source's four error classes (R221). -/
inductive ErrorClass where
  | transport
  | framing
  | integrity
  | config
  deriving DecidableEq, Repr

/-- The code of an error class (R221, D28); no result carries it. -/
def errorCode : ErrorClass → Nat
  | .transport => 1
  | .framing => 2
  | .integrity => 3
  | .config => 4

/-- The error class a NOTIFY status reports, if it reports one (R221). -/
def statusError : NotifyStatus → Option ErrorClass
  | .ignoredUnconfigured => none
  | .ignoredChannel => none
  | .ignoredEmpty => none
  | .framingError => some .framing
  | .integrityError => some .integrity
  | .delivered => none

/-- The result of a command write: `OK` exactly when the write reports a nonzero byte count (R194, R199). -/
def writeResult (written : Fin 8) : OpResult := if written ≠ 0 then .ok else .fail

/-- Whether INIT transmits the mode frame and its write makes INIT fail (R190, R192). -/
def initWriteFails (p : Params) (written : Fin 8) : Bool :=
  p.initSendsMode && p.initChecksModeWrite && decide (written = 0)

/-- The error class that makes INIT fail, in the order of R190's tests (R191, R226), or `none` where INIT succeeds. -/
def initError (p : Params) (sink : Bool) (a : Answers) : Option ErrorClass :=
  if sink = false then some .config
  else if a.devCfgOk = false then some .config
  else if initWriteFails p a.written then some .transport
  else none

/-- The error class that makes a command operation fail (R194, R221), or `none` where it succeeds. -/
def commandError (cfgValid : Bool) (a : Answers) : Option ErrorClass :=
  if cfgValid = false then some .config
  else if a.written = 0 then some .transport
  else none

/-- The result the caller sees of an operation: `OK` or `FAIL`, never the cause (R222). -/
def resultOf : Option ErrorClass → OpResult
  | none => .ok
  | some _ => .fail

end Sys2Proof.Machine
end

