-- ==== Sys2Proof/Machine/Ops.lean ====
section
/-! DEFINITION. The shared operations: the buffer space, the instance an operation runs on, transmission, the dispatch
cycle, delivery, fetch. The block has no exceptions, so there is no exception entry and no return from one
(60_exceptions.md R220, R228): every error is a result or a status. -/

namespace Sys2Proof.Machine

/-! ### The buffer space (20_memory.md R40, R41, R50) -/

/-- What an address that is not listed reads as: no value, the contents being unspecified (R20; log 10). -/
def Memory.unlisted : Option Byte := none

/-- The byte at an address. -/
def Memory.read : Memory → Nat → Option Byte
  | [], _ => Memory.unlisted
  | (b, w) :: m, a => if a = b then some w else Memory.read m a

/-- `MemWrite(a, 1, v)` (R12), keeping the addresses in rising order. -/
def Memory.write : Memory → Nat → Byte → Memory
  | [], a, v => [(a, v)]
  | (b, w) :: m, a, v =>
    if a < b then (a, v) :: (b, w) :: m
    else if a = b then (a, v) :: m
    else (b, w) :: Memory.write m a v

/-- The canonical form: addresses strictly rising, and no entry equal to what an unlisted address reads as. -/
abbrev Memory.wf (m : Memory) : Prop :=
  m.Pairwise (fun c d => c.1 < d.1) ∧ ∀ c ∈ m, some c.2 ≠ Memory.unlisted

/-- The writes of R41: `data[j]` to address `a + j`, earliest byte first (R42). -/
def Memory.append : Memory → Nat → List Byte → Memory
  | m, _, [] => m
  | m, a, d :: data => Memory.append (Memory.write m a d) (a + 1) data

/-- The `n` bytes from address `a` on, or `none` where one of them has no value. -/
def Memory.slice (m : Memory) (a : Nat) : Nat → Option (List Byte)
  | 0 => some []
  | n + 1 =>
    match Memory.read m a with
    | none => none
    | some b => (Memory.slice m (a + 1) n).map (b :: ·)

/-- The valid bytes of the accumulation buffer, `BUF[0 .. BUF_LEN-1]` (R40). -/
def bufBytes (k : Instance) : Option (List Byte) := Memory.slice k.buf 0 k.bufLen

/-- Read and append (R41, R165): the payload is written at `BUF_LEN`, and `BUF_LEN` grows by its length. -/
def appendData (data : List Byte) (k : Instance) : Instance :=
  { k with buf := Memory.append k.buf k.bufLen data, bufLen := k.bufLen + data.length }

/-- `n > P_BUF_CAP` (R52); never with an unbounded buffer. -/
def overCapacity (p : Params) (n : Nat) : Bool :=
  match p.bufCap with
  | none => false
  | some c => decide (c < n)

/-! ### Outputs and the instance an operation runs on -/

/-- `result <- r` (R12): the result of a caller's operation is shown to the caller (R33 (3)). -/
def reportResult (r : OpResult) (k : Instance) : Instance := { k with results := k.results ++ [r] }

/-- `status <- st` (R12): the diagnostic status of a NOTIFY is shown (R33 (4), R173). -/
def reportStatus (st : NotifyStatus) (k : Instance) : Instance := { k with statuses := k.statuses ++ [st] }

/-- `BUF_LEN <- 0`: the buffer is cleared (R161). The bytes stay where they are, unreadable (log 11). -/
def clearBuf (k : Instance) : Instance := { k with bufLen := 0 }

/-- `transmit(ch, C)` (R12): the 7 bytes are handed to the sink of `ch` and recorded, whatever count it reports (R33 (2), D13). -/
def transmit (ch : Channel) (C : List Byte) (k : Instance) : Instance :=
  { k with transmits := k.transmits ++ [(ch, C)] }

/-- An operation is in progress on the instance: a NOTIFY waits for its consumer (R172, R229). -/
def busy (k : Instance) : Bool := k.recOut.isSome

/-- The instance the running operation is presented to takes a new value; every other keeps its own (R32). -/
def putInst (s : State) (k : Instance) : State := { s with insts := s.insts.set s.cur k }

/-- Begin an operation on the instance it is presented to: refused while another is in progress on it (R229). -/
def onInst (s : State) (f : Instance → Host.Outcome State Fault Refusal) : Host.Outcome State Fault Refusal :=
  match s.insts[s.cur]? with
  | none => .fault .noSuchInstance
  | some k => if busy k then .refused .reentrant else f k

/-- Some instance is configured for the channel (R233). -/
def channelTaken (s : State) (ch : Channel) : Bool :=
  s.insts.any fun k => k.cfgValid && decide (k.cfgChannel = ch)

/-! ### Command transmission (44_host_operations.md R194) -/

/-- `CMD_TX(C)` on an instance: unconfigured, it fails and hands nothing to a sink; configured, the frame goes to the
sink of `CFG_CHANNEL` and the result tells whether the count was nonzero. -/
def cmdTxInst (C : List Byte) (a : Answers) (k : Instance) : Instance :=
  if k.cfgValid = false then reportResult (resultOf (commandError k.cfgValid a)) k
  else reportResult (resultOf (commandError k.cfgValid a)) (transmit k.cfgChannel C k)

/-- `CMD_TX(C)` (R194). -/
def cmdTx (C : List Byte) (s : State) : Host.Outcome State Fault Refusal :=
  onInst s fun k => .next (putInst s (cmdTxInst C s.answers k))

/-! ### Initialisation (44_host_operations.md R190) -/

/-- The mode write of INIT, made only where `P_INIT_SENDS_MODE` (R192). -/
def initWrite (p : Params) (ch : Channel) (mode : Mode) (k : Instance) : Instance :=
  if p.initSendsMode then transmit ch (modeFrame mode) k else k

/-- INIT that fails: nothing changes but the result, and the mode write where it was reached (R191). -/
def initFailed (p : Params) (ch : Channel) (sink : Bool) (mode : Mode) (a : Answers) (k : Instance) : Instance :=
  reportResult .fail (if sink && a.devCfgOk then initWrite p ch mode k else k)

/-- INIT that succeeds: `CFG_CHANNEL <- ch; CFG_VALID <- 1; BUF_LEN <- 0` (R190). -/
def initDone (p : Params) (ch : Channel) (mode : Mode) (k : Instance) : Instance :=
  reportResult .ok { initWrite p ch mode k with cfgChannel := ch, cfgValid := true, bufLen := 0 }

/-! ### The dispatch cycle (43_stream_dispatcher.md R161) -/

/-- The consumer has accepted the record: it is handed over, `BUF_LEN <- 0`, status `DELIVERED` (R168, R172; log 7). -/
def completeDelivery (r : Record) (k : Instance) : Instance :=
  reportStatus .delivered (clearBuf { k with recOut := none, deliveries := k.deliveries ++ [r] })

/-- `REC_OUT <- rec; deliver(REC_OUT)` (R161, R172): the record is offered; the NOTIFY completes once it is accepted,
and until then the instance holds the offer. -/
def offer (r : Record) (accepts : Bool) (k : Instance) : Instance :=
  if accepts then completeDelivery r { k with recOut := some r } else { k with recOut := some r }

/-- Validate, decode, deliver, clear (R161, R167, R168), for the frame the locator found. -/
def dispatchFrame (F : List Byte) (accepts : Bool) (k : Instance) : Instance :=
  if checksumOk F then offer (decodeRecord F) accepts k
  else reportStatus .integrityError (clearBuf k)

/-- Locate and what follows (R161), for the bytes `B` the buffer holds. -/
def dispatchBytes (B : List Byte) (accepts : Bool) (k : Instance) : Instance :=
  match locate B with
  | none => reportStatus .framingError (clearBuf k)
  | some p => dispatchFrame (frameAt B p) accepts k

/-- NOTIFY on the instance `k` that has been presented it, in the order of R161 (R225; log 23). -/
def receive (ch : Channel) (data : List Byte) (s : State) (k : Instance) : Host.Outcome State Fault Refusal :=
  if k.cfgValid = false then .next (putInst s (reportStatus .ignoredUnconfigured k))
  else if ch ≠ k.cfgChannel then .next (putInst s (reportStatus .ignoredChannel k))
  else if data = [] then .next (putInst s (reportStatus .ignoredEmpty k))
  else if overCapacity s.params data.length then .refused .bufferCapacity
  else match bufBytes (appendData data k) with
    | none => .fault .unwrittenByte
    | some B => .next (putInst s (dispatchBytes B s.answers.accepts (appendData data k)))

/-! ### The host's events -/

/-- The consumer of instance `n` accepts: the record it is offered is delivered (R172). With nothing offered there is
nothing to accept, and nothing changes (log 6). -/
def acceptEvent (n : Nat) (s : State) : Host.Outcome State Fault Refusal :=
  match s.insts[n]? with
  | none => .fault .noSuchInstance
  | some k =>
    match k.recOut with
    | none => .next s
    | some r => .next { s with insts := s.insts.set n (completeDelivery r k) }

/-- Instance `n` is reset (R250), which has a meaning only while no operation is in progress on it (R251). -/
def resetEvent (n : Nat) (s : State) : Host.Outcome State Fault Refusal :=
  match s.insts[n]? with
  | none => .fault .noSuchInstance
  | some k =>
    if busy k then .fault .resetInProgress
    else .next { s with insts := s.insts.set n Instance.reset }

/-- The events left once an operation has been taken from a presentation: bytes after it are the next operation of the
same presentation (R72; log 19). -/
def remaining (n : Nat) (rest : List Byte) (a : Answers) (es : List Event) : List Event :=
  match rest with
  | [] => es
  | _ :: _ => .present n rest a :: es

/-- The state in which an operation presented to instance `n` with draws `a` runs. -/
def fetched (n : Nat) (a : Answers) (es : List Event) (s : State) : State :=
  { s with pending := es, cur := n, answers := a }

/-- The event that runs an instruction on the current instance with the draws the state holds: a host transaction is
presented by its bytes, a command frame is named (R44; log 1), a data frame arrives (log 2). -/
def instrEvent (s : State) : Instr → Event
  | .cmdSetPassive => .emit s.cur .setPassive s.answers
  | .cmdSetActive => .emit s.cur .setActive s.answers
  | .cmdRequestRead => .emit s.cur .requestRead s.answers
  | .cmdSleep => .emit s.cur .sleep s.answers
  | .cmdWakeup => .emit s.cur .wakeup s.answers
  | .dataFrame f => .arrive s.cur f s.answers
  | .init ch sink mode => .present s.cur (encode (.init ch sink mode)) s.answers
  | .notify ch data => .present s.cur (encode (.notify ch data)) s.answers
  | .setMode mode => .present s.cur (encode (.setMode mode)) s.answers
  | .sleep => .present s.cur (encode .sleep) s.answers
  | .wakeup => .present s.cur (encode .wakeup) s.answers
  | .requestRead => .present s.cur (encode .requestRead) s.answers

/-- The events of an opcode-table word (log 22): the one that runs the instruction it spells. A word that spells none is
presented as it is where it is a host transaction, and is then refused (R73); where it is no command frame or no data frame
the host has nothing to issue, since no bytes of a frame are presented (log 21). -/
def tableEvents (s : State) (nbits w : Nat) : List Event :=
  match decode s.params.chW (tableFormat nbits) (tableBytes nbits w) with
  | .ok (i, _) => [instrEvent s i]
  | .error _ =>
    match tableFormat nbits with
    | .htx => [.present s.cur (tableBytes nbits w) s.answers]
    | .cmd7 => []
    | .data32 => []

end Sys2Proof.Machine
end

