-- ==== Sys2Proof/Machine/CommandFrames.lean ====
section
/-! DEFINITION. The five command frames as instructions (30_encoding.md R67; 44_host_operations.md R194): each is handed
to the byte sink by `CMD_TX` (log 1). -/

namespace Sys2Proof.Machine

/-- CMD_SET_PASSIVE (R67, R195). -/
def execCmdSetPassive (s : State) : Host.Outcome State Fault Refusal := cmdTx setPassiveFrame s

/-- CMD_SET_ACTIVE (R67, R195). -/
def execCmdSetActive (s : State) : Host.Outcome State Fault Refusal := cmdTx setActiveFrame s

/-- CMD_REQUEST_READ (R67, R198). -/
def execCmdRequestRead (s : State) : Host.Outcome State Fault Refusal := cmdTx requestReadFrame s

/-- CMD_SLEEP (R67, R196). -/
def execCmdSleep (s : State) : Host.Outcome State Fault Refusal := cmdTx sleepFrame s

/-- CMD_WAKEUP (R67, R197). -/
def execCmdWakeup (s : State) : Host.Outcome State Fault Refusal := cmdTx wakeupFrame s

end Sys2Proof.Machine
end

