-- ==== Sys2Proof/Machine/HostOps.lean ====
section
/-! DEFINITION. The caller's operations: INIT, SET_MODE, SLEEP, WAKEUP, REQUEST_READ (44_host_operations.md). -/

namespace Sys2Proof.Machine

/-- INIT (R190 to R193). A second instance for a channel is refused where INIT would succeed (R233; log 17). -/
def execInit (ch : Channel) (sink : Bool) (mode : Mode) (s : State) : Host.Outcome State Fault Refusal :=
  onInst s fun k =>
    if k.cfgValid then .refused .reinit
    else match initError s.params sink s.answers with
      | some _ => .next (putInst s (initFailed s.params ch sink mode s.answers k))
      | none =>
        if channelTaken s ch then .refused .sharedChannel
        else .next (putInst s (initDone s.params ch mode k))

/-- SET_MODE (R195). -/
def execSetMode (mode : Mode) (s : State) : Host.Outcome State Fault Refusal := cmdTx (modeFrame mode) s

/-- SLEEP (R196). -/
def execSleep (s : State) : Host.Outcome State Fault Refusal := cmdTx sleepFrame s

/-- WAKEUP (R197). -/
def execWakeup (s : State) : Host.Outcome State Fault Refusal := cmdTx wakeupFrame s

/-- REQUEST_READ (R198). -/
def execRequestRead (s : State) : Host.Outcome State Fault Refusal := cmdTx requestReadFrame s

end Sys2Proof.Machine
end

