-- ==== Sys2Proof/Machine/Receive.lean ====
section
/-! DEFINITION. The receive family: NOTIFY (43_stream_dispatcher.md) and the data frame it receives (30_encoding.md R60). -/

namespace Sys2Proof.Machine

/-- NOTIFY (R160, R161): one dispatch cycle. -/
def execNotify (ch : Channel) (data : List Byte) (s : State) : Host.Outcome State Fault Refusal :=
  onInst s (receive ch data s)

/-- DATA_FRAME (R60, R161): the 32 bytes arrive, alone in one notification, on the channel the instance is configured
for (log 2). -/
def execDataFrame (f : DataFrame) (s : State) : Host.Outcome State Fault Refusal :=
  onInst s fun k => receive k.cfgChannel (frameBytes f) s k

end Sys2Proof.Machine
end

