-- ==== Sys2Proof/Machine/Dispatch.lean ====
section
/-! DEFINITION. One arm per instruction. -/

namespace Sys2Proof.Machine

def exec (i : Instr) (s : State) : Host.Outcome State Fault Refusal :=
  match i with
  | .init ch sink mode => Sys2Proof.Machine.execInit ch sink mode s
  | .notify ch data => Sys2Proof.Machine.execNotify ch data s
  | .setMode mode => Sys2Proof.Machine.execSetMode mode s
  | .sleep => Sys2Proof.Machine.execSleep s
  | .wakeup => Sys2Proof.Machine.execWakeup s
  | .requestRead => Sys2Proof.Machine.execRequestRead s
  | .cmdSetPassive => Sys2Proof.Machine.execCmdSetPassive s
  | .cmdSetActive => Sys2Proof.Machine.execCmdSetActive s
  | .cmdRequestRead => Sys2Proof.Machine.execCmdRequestRead s
  | .cmdSleep => Sys2Proof.Machine.execCmdSleep s
  | .cmdWakeup => Sys2Proof.Machine.execCmdWakeup s
  | .dataFrame f => Sys2Proof.Machine.execDataFrame f s

end Sys2Proof.Machine
end

