-- ==== Sys2Proof/Machine/Step.lean ====
section
/-! DEFINITION. One step: the host's next event (00_scope.md R7; log 4). -/

namespace Sys2Proof.Machine

/-- One step takes the host's next event. An operation is decoded and run; a consumer's acceptance completes a waiting
NOTIFY; a reset resets an instance; with no event the block does nothing, since it "takes a step only inside a host
operation" (R7). A state that carries a refusal mark refuses again: the mark is kept for the whole run (R12, R238). Bytes are
decoded before the instance they are presented to is looked at (log 20). -/
def step (s : State) : Host.Outcome State Fault Refusal :=
  match s.refusalMark with
  | some r => .refused r
  | none =>
    match s.pending with
    | [] => .next s
    | .accept n :: es => acceptEvent n { s with pending := es }
    | .reset n :: es => resetEvent n { s with pending := es }
    | .emit n c a :: es => exec c.instr (fetched n a es s)
    | .arrive n f a :: es => exec (.dataFrame f) (fetched n a es s)
    | .present n bytes a :: es =>
      match decode s.params.chW .htx bytes with
      | .error _ => .refused .illegalEncoding
      | .ok (i, rest) => exec i (fetched n a (remaining n rest a es) s)

/-- `s` with an opcode-table word as the host's next event (log 22): on the current instance, with the draws `s` holds,
and no refusal mark stops it. -/
def State.withFetchWord (s : State) (nbits w : Nat) : State :=
  { s with pending := tableEvents s nbits w ++ s.pending, refusalMark := none }

end Sys2Proof.Machine
end

