-- ==== Sys2Proof/Safety.lean ====
section
/-! DEFINITION. What holds in every run: the invariant of an instance and of the system, the readiness of an operation,
the run that keeps a refusal mark, and what a run shows. -/

namespace Sys2Proof.Machine

/-- The bytes of a buffer lie in its address space `0 .. P_BUF_CAP-1` (R40). -/
abbrev Memory.within (p : Params) (m : Memory) : Prop :=
  ∀ c ∈ m, overCapacity p (c.1 + 1) = false

/-- What holds of an instance at every operation boundary and while a NOTIFY waits for its consumer. -/
structure Instance.Inv (p : Params) (k : Instance) : Prop where
  /-- the buffer is in canonical form -/
  bufWf : Memory.wf k.buf
  /-- and inside its address space (R40) -/
  bufWithin : Memory.within p k.buf
  /-- `BUF_LEN = 0` at every operation boundary (R24) -/
  emptyAtBoundary : k.recOut = none → k.bufLen = 0
  /-- `BUF_LEN` is in `0 .. P_BUF_CAP` (R20) -/
  lenWithin : overCapacity p k.bufLen = false
  /-- every byte below `BUF_LEN` has been written (R40) -/
  written : ∃ B, bufBytes k = some B
  /-- `CFG_CHANNEL` is a channel of `P_CH_W` bits (R20) -/
  channelFits : channelFits p.chW k.cfgChannel = true
  /-- a record is offered only by a configured instance (R161) -/
  offerConfigured : k.recOut ≠ none → k.cfgValid = true
  /-- only the five command frames are emitted (R68) -/
  framesEmitted : ∀ t ∈ k.transmits, t.2 ∈ commandFrames
  /-- each `DELIVERED` status stands for exactly one delivered record (R168, R171) -/
  oneEach : k.deliveries.length = k.statuses.count .delivered

/-- No two configured instances have the same channel (R233). -/
def distinctChannels (ks : List Instance) : Prop :=
  ks.Pairwise fun k j => k.cfgValid = true → j.cfgValid = true → k.cfgChannel ≠ j.cfgChannel

/-- The invariant of the system. -/
structure State.Inv (s : State) : Prop where
  /-- the parameters are as R9 asks -/
  params : s.params.wf = true
  /-- `P_N_INST ≥ 1` (R9) -/
  someInst : s.insts ≠ []
  /-- every instance keeps its invariant -/
  each : ∀ k ∈ s.insts, Instance.Inv s.params k
  /-- channels are not shared (R233) -/
  distinct : distinctChannels s.insts

/-- An operation can begin: the instance it is presented to is `k`, and no operation is in progress on it (R229). -/
def State.Ready (s : State) (k : Instance) : Prop := s.insts[s.cur]? = some k ∧ k.recOut = none

/-- A state with the refusal mark set (R12). -/
def State.markRefused (s : State) (r : Refusal) : State := { s with refusalMark := some r }

/-- One step of a run that goes on for ever: a refusal sets the mark and the state then stays as it is (R12, R238); so
it does after a fault, about which nothing is claimed. -/
def State.advance (s : State) : State :=
  match step s with
  | .next s' => s'
  | .refused r => s.markRefused r
  | .fault _ => s

/-- What a run shows of one instance, and nothing else (R33). -/
structure Observables where
  deliveries : List Record
  transmits : List (Channel × List Byte)
  results : List OpResult
  statuses : List NotifyStatus
  deriving DecidableEq, Repr

/-- The observable outputs of an instance (R33). -/
def Instance.observables (k : Instance) : Observables :=
  { deliveries := k.deliveries, transmits := k.transmits, results := k.results, statuses := k.statuses }

/-- Two instances the outside cannot tell apart: they differ at most in the bytes of a buffer that is empty
(`BUF_LEN = 0`, R20) and in the channel of an unconfigured instance (R20). -/
structure Instance.SameOutside (k j : Instance) : Prop where
  cfgValid : k.cfgValid = j.cfgValid
  cfgChannel : k.cfgValid = true → k.cfgChannel = j.cfgChannel
  bufLen : k.bufLen = j.bufLen
  bufBytes : bufBytes k = bufBytes j
  recOut : k.recOut = j.recOut
  observables : k.observables = j.observables

/-- Two systems the outside cannot tell apart. -/
structure State.SameOutside (s t : State) : Prop where
  params : s.params = t.params
  pending : s.pending = t.pending
  cur : s.cur = t.cur
  answers : s.answers = t.answers
  refusalMark : s.refusalMark = t.refusalMark
  insts : List.Forall₂ Instance.SameOutside s.insts t.insts

/-- Two outcomes the outside cannot tell apart: the same stop, or next states it cannot tell apart. -/
def outcomesMatch : Host.Outcome State Fault Refusal → Host.Outcome State Fault Refusal → Prop
  | .next s, .next t => State.SameOutside s t
  | .fault f, .fault g => f = g
  | .refused q, .refused r => q = r
  | _, _ => False

end Sys2Proof.Machine
end

