-- ==== Sys2Proof/Certificates/Slice0/Obligations.lean ====
section
/-! DEFINITION. The statements for the provers. Each names the rules of spec/ it formalises; nothing here rests on a
value this model chose. Host draws (`answers`) and parameters (`params`) are universally quantified in every one.
A log entry named in a docstring is one of notes/assumptions/. -/

namespace Sys2Proof.Statements

open Sys2Proof Sys2Proof.Machine

/-- A NOTIFY on the channel of instance `k` can read the bytes `data` (R161): the instance is configured, idle, with an
empty buffer, and there are some bytes, which fit in the buffer. -/
structure Cycle (s : State) (k : Instance) (data : List Byte) : Prop where
  ready : s.Ready k
  empty : k.bufLen = 0
  configured : k.cfgValid = true
  nonempty : data ≠ []
  fits : ∀ c, s.params.bufCap = some c → data.length ≤ c

/-- What a dispatch cycle that reads `data` leaves alone (R200), and what the buffer's bytes are after it (R41): the
payload at addresses `0 .. n-1`, every other address as before. -/
structure CycleFrame (k k' : Instance) (data : List Byte) : Prop where
  cfgValid : k'.cfgValid = k.cfgValid
  cfgChannel : k'.cfgChannel = k.cfgChannel
  transmits : k'.transmits = k.transmits
  results : k'.results = k.results
  written : ∀ j, j < data.length → Memory.read k'.buf j = data[j]?
  others : ∀ a, data.length ≤ a → Memory.read k'.buf a = Memory.read k.buf a

/-- Position `q` holds the two marker bytes (R61). -/
def MarkerAt (B : List Byte) (q : Nat) : Prop := B[q]? = some 0x42#8 ∧ B[q + 1]? = some 0x4D#8

/-- A command instruction and the seven bytes it hands over, as R67 gives them (host operations). -/
def hostCommand : List (Instr × List Byte) :=
  [(.setMode .passive, [0x42#8, 0x4D#8, 0xE1#8, 0x00#8, 0x00#8, 0x01#8, 0x70#8]),
   (.setMode .active, [0x42#8, 0x4D#8, 0xE1#8, 0x00#8, 0x01#8, 0x01#8, 0x71#8]),
   (.sleep, [0x42#8, 0x4D#8, 0xE4#8, 0x00#8, 0x00#8, 0x01#8, 0x73#8]),
   (.wakeup, [0x42#8, 0x4D#8, 0xE4#8, 0x00#8, 0x01#8, 0x01#8, 0x74#8]),
   (.requestRead, [0x42#8, 0x4D#8, 0xE2#8, 0x00#8, 0x00#8, 0x01#8, 0x71#8])]

/-- The five command frames as instructions (log 1), with their bytes as R67 gives them. -/
def frameCommand : List (Instr × List Byte) :=
  [(.cmdSetPassive, [0x42#8, 0x4D#8, 0xE1#8, 0x00#8, 0x00#8, 0x01#8, 0x70#8]),
   (.cmdSetActive, [0x42#8, 0x4D#8, 0xE1#8, 0x00#8, 0x01#8, 0x01#8, 0x71#8]),
   (.cmdRequestRead, [0x42#8, 0x4D#8, 0xE2#8, 0x00#8, 0x00#8, 0x01#8, 0x71#8]),
   (.cmdSleep, [0x42#8, 0x4D#8, 0xE4#8, 0x00#8, 0x00#8, 0x01#8, 0x73#8]),
   (.cmdWakeup, [0x42#8, 0x4D#8, 0xE4#8, 0x00#8, 0x01#8, 0x01#8, 0x74#8])]

/-- The write of the mode frame fails INIT (R192). -/
def ModeWriteFails (s : State) : Prop :=
  s.params.initSendsMode = true ∧ s.params.initChecksModeWrite = true ∧ s.answers.written = 0

/-- What INIT adds to the transmit trace when it reaches the mode write (R190, R192). -/
def modeWrite (s : State) (ch : Channel) (mode : Mode) : List (Channel × List Byte) :=
  if s.params.initSendsMode then
    [(ch, match mode with
      | .passive => [0x42#8, 0x4D#8, 0xE1#8, 0x00#8, 0x00#8, 0x01#8, 0x70#8]
      | .active => [0x42#8, 0x4D#8, 0xE1#8, 0x00#8, 0x01#8, 0x01#8, 0x71#8])]
  else []

/-- Bytes that spell no host operation, for the reasons R73 gives. -/
def IllegalHost (chW : Nat) (bs : List Byte) : Prop :=
  ∃ h body, bs = h :: body ∧
    ((h.extractLsb' 0 3 = 6#3 ∨ h.extractLsb' 0 3 = 7#3) ∨
     h.extractLsb' 5 3 ≠ 0#3 ∨
     (h.getLsbD 3 = true ∧ h.extractLsb' 0 3 ≠ 0#3 ∧ h.extractLsb' 0 3 ≠ 2#3) ∨
     (h.getLsbD 4 = true ∧ h.extractLsb' 0 3 ≠ 0#3) ∨
     ((h.extractLsb' 0 3 = 0#3 ∨ h.extractLsb' 0 3 = 1#3) ∧
        ∃ ch rest j, body = ch :: rest ∧ chW ≤ j ∧ ch.getLsbD j = true) ∨
     (h.extractLsb' 0 3 = 1#3 ∧
        (body.length < 3 ∨ ∃ ch n1 n0 data, body = ch :: n1 :: n0 :: data ∧
          data.length < 256 * n1.toNat + n0.toNat)))

/-- The host's next event in `s` runs instruction `i` in the state `s'`: it presents bytes that decode to `i`, or names the
command frame whose row `i` is (log 1), or is the arrival of the data frame `i` (log 2); in `s'` the event is taken (or holds
the bytes after `i`, log 19) and its instance and draws are the current ones. -/
def Runs (s : State) (i : Instr) (s' : State) : Prop :=
  ∃ (n : Nat) (a : Answers) (es : List Event),
    (∃ bs rest, s.pending = .present n bs a :: es ∧ decode s.params.chW .htx bs = .ok (i, rest) ∧
      s' = { s with pending := if rest = [] then es else .present n rest a :: es, cur := n, answers := a }) ∨
    (∃ c, s.pending = .emit n c a :: es ∧ i = c.instr ∧ s' = { s with pending := es, cur := n, answers := a }) ∨
    (∃ f, s.pending = .arrive n f a :: es ∧ i = .dataFrame f ∧ s' = { s with pending := es, cur := n, answers := a })

end Sys2Proof.Statements

open Sys2Proof Sys2Proof.Machine Sys2Proof.Statements

/-! ### Encodings (30_encoding.md) -/

/-- Every well-formed instruction is read back from its own bytes, whatever follows them, with every operand. -/
def Obligations.DecodeInvertsEncode : Prop :=
  ∀ (chW : Nat) (i : Instr) (rest : List Byte), i.wf chW = true →
    decode chW i.format (encode i ++ rest) = .ok (i, rest)

/-- Whatever the decoder accepts is the encoding of the well-formed instruction it answers. -/
def Obligations.DecodeAcceptsOnlyEncodings : Prop :=
  ∀ (chW : Nat) (fmt : Format) (bs : List Byte) (i : Instr) (rest : List Byte),
    decode chW fmt bs = .ok (i, rest) → i.format = fmt ∧ i.wf chW = true ∧ bs = encode i ++ rest

/-- R73: a reserved `op`, a must-be-zero bit that is set, a `CH` bit at or above `P_CH_W`, a NOTIFY that ends before its
payload does: the model refuses each. That a NOTIFY cut before its `NLEN` bytes is refused too is the model's inference
(log 18), and that the refusal is ILLEGAL_ENCODING even where the instance is busy is its choice (log 20). Everything the
host's decoder accepts is one of the six operations of R70. -/
def Obligations.IllegalHostEncodingsRefused : Prop :=
  (∀ (s : State) (n : Nat) (bs : List Byte) (a : Answers) (es : List Event),
    s.refusalMark = none → s.pending = .present n bs a :: es → IllegalHost s.params.chW bs →
    step s = .refused .illegalEncoding) ∧
  (∀ (chW : Nat) (bs : List Byte) (i : Instr) (rest : List Byte), decode chW .htx bs = .ok (i, rest) →
    (∃ ch sink mode, i = .init ch sink mode) ∨ (∃ ch data, i = .notify ch data) ∨ (∃ m, i = .setMode m) ∨
      i = .sleep ∨ i = .wakeup ∨ i = .requestRead)

/-- Words of 95_test_vectors.md §2.6 and of R67, written out, decode as they should. -/
def Obligations.WordsDecodeAsWritten : Prop :=
  decode 2 .htx [0x18#8, 0x01#8] = .ok (.init 1#8 true .active, []) ∧
  decode 2 .htx [0x10#8, 0x00#8] = .ok (.init 0#8 true .passive, []) ∧
  decode 2 .htx [0x08#8, 0x00#8] = .ok (.init 0#8 false .active, []) ∧
  decode 2 .htx [0x01#8, 0x00#8, 0x00#8, 0x00#8] = .ok (.notify 0#8 [], []) ∧
  decode 2 .htx [0x01#8, 0x01#8, 0x00#8, 0x02#8, 0x42#8, 0x4D#8] = .ok (.notify 1#8 [0x42#8, 0x4D#8], []) ∧
  decode 2 .htx [0x02#8] = .ok (.setMode .passive, []) ∧
  decode 2 .htx [0x0A#8] = .ok (.setMode .active, []) ∧
  decode 2 .htx [0x03#8] = .ok (.sleep, []) ∧
  decode 2 .htx [0x04#8] = .ok (.wakeup, []) ∧
  decode 2 .htx [0x05#8] = .ok (.requestRead, []) ∧
  decode 2 .cmd7 [0x42#8, 0x4D#8, 0xE2#8, 0x00#8, 0x00#8, 0x01#8, 0x71#8] = .ok (.cmdRequestRead, []) ∧
  decode 2 .cmd7 [0x42#8, 0x4D#8, 0xE4#8, 0x00#8, 0x01#8, 0x01#8, 0x74#8] = .ok (.cmdWakeup, [])

/-- R65, R66, R67: the five command frames, 7 bytes each, with marker, code, data and big-endian checksum as the table
has them, the checksum being the sum of bytes 0 to 4. -/
def Obligations.CommandFramesMatchTable : Prop :=
  commandFrames =
    [[0x42#8, 0x4D#8, 0xE1#8, 0x00#8, 0x00#8, 0x01#8, 0x70#8], [0x42#8, 0x4D#8, 0xE1#8, 0x00#8, 0x01#8, 0x01#8, 0x71#8],
     [0x42#8, 0x4D#8, 0xE2#8, 0x00#8, 0x00#8, 0x01#8, 0x71#8], [0x42#8, 0x4D#8, 0xE4#8, 0x00#8, 0x00#8, 0x01#8, 0x73#8],
     [0x42#8, 0x4D#8, 0xE4#8, 0x00#8, 0x01#8, 0x01#8, 0x74#8]] ∧
  commandFrames.map (fun C => (cmdCode C, cmdData C, cmdChecksum C)) =
    [(0xE1#8, 0x0000#16, 0x0170#16), (0xE1#8, 0x0001#16, 0x0171#16), (0xE2#8, 0x0000#16, 0x0171#16),
     (0xE4#8, 0x0000#16, 0x0173#16), (0xE4#8, 0x0001#16, 0x0174#16)] ∧
  ∀ C ∈ commandFrames, C.length = 7 ∧ byteAt C 0 = 0x42#8 ∧ byteAt C 1 = 0x4D#8 ∧
    (cmdChecksum C).toNat = (byteAt C 0).toNat + (byteAt C 1).toNat + (byteAt C 2).toNat + (byteAt C 3).toNat +
      (byteAt C 4).toNat

/-! ### Reset (70_reset_and_hazards.md) -/

/-- R250: what reset leaves, for every parameter and every number of instances: no refusal mark, and every instance with no
handle. What R250 leaves unspecified is not claimed. -/
def Obligations.ResetLeavesNoHandle : Prop :=
  (∀ (p : Params) (n : Nat), (State.resetWith p n).refusalMark = none ∧ (State.resetWith p n).insts.length = n ∧
    ∀ k ∈ (State.resetWith p n).insts, k.cfgValid = false ∧ k.bufLen = 0 ∧ k.deliveries = [] ∧ k.transmits = []) ∧
  (∃ p n, State.reset = State.resetWith p n)

/-- A reset of an idle instance, in any state, leaves that instance as R250 says and every other as it was. That reset is an
event of one instance is the model's choice (log 15). -/
def Obligations.ResetEventResetsOneInstance : Prop :=
  ∀ (s : State) (n : Nat) (k : Instance) (es : List Event), s.refusalMark = none → s.pending = .reset n :: es →
    s.insts[n]? = some k → k.recOut = none →
    ∃ t k', step s = .next t ∧ t.insts[n]? = some k' ∧ k'.cfgValid = false ∧ k'.bufLen = 0 ∧ k'.deliveries = [] ∧
      k'.transmits = [] ∧ (∀ j, j ≠ n → t.insts[j]? = s.insts[j]?) ∧ t.insts.length = s.insts.length ∧
      t.params = s.params ∧ t.refusalMark = none ∧ t.pending = es

/-- The reset state meets the invariant, for every parameters as R9 asks and at least one instance. -/
def Obligations.ResetMeetsInvariant : Prop :=
  (∀ (p : Params) (n : Nat), p.wf = true → 0 < n → (State.resetWith p n).Inv) ∧ State.reset.Inv

/-- Every step keeps the invariant: canonical buffer memory inside its address space, `BUF_LEN = 0` at every operation
boundary (R24), channels of `P_CH_W` bits, records offered only by configured instances, only the five command frames
emitted (R68), one record for each `DELIVERED` status (R171), no channel shared (R233). -/
def Obligations.StepKeepsInvariant : Prop :=
  ∀ s t : State, s.Inv → step s = .next t → t.Inv

/-! ### Frame Locator, Checksum Validator, Field Decoder -/

/-- R104: LOCATE finds the least position with the marker and 32 bytes to the end, and nothing where there is none. -/
def Obligations.LocateFindsLeastQualifyingMarker : Prop :=
  ∀ B : List Byte,
    (∀ p, locate B = some p ↔
      (p + 32 ≤ B.length ∧ MarkerAt B p) ∧ ∀ q, q + 32 ≤ B.length → MarkerAt B q → p ≤ q) ∧
    (locate B = none ↔ ∀ q, ¬(q + 32 ≤ B.length ∧ MarkerAt B q))

/-- R109, the properties the source states: no marker, nothing found; the first marker with fewer than 32 bytes from it to
the end, nothing found; the earliest marker with at least 32 bytes, found; an earlier qualifying marker wins. -/
def Obligations.LocatorSourceProperties : Prop :=
  ∀ B : List Byte,
    ((∀ q, ¬ MarkerAt B q) → locate B = none) ∧
    (∀ q, MarkerAt B q → (∀ j, j < q → ¬ MarkerAt B j) → B.length < q + 32 → locate B = none) ∧
    (∀ q, MarkerAt B q → q + 32 ≤ B.length → (∀ j, j < q → ¬ MarkerAt B j) → locate B = some q) ∧
    (∀ q, MarkerAt B q → q + 32 ≤ B.length → ∃ p, p ≤ q ∧ locate B = some p)

/-- R46 and the bounds of R174: every address the locator reads is below the buffer's length, there are at most
`2(n-1)` reads in the scan, the frame view lies inside the buffer, and the validator sums 30 and the decoder reads 24
bytes of the 32. The lists of addresses stand beside the functions (log 24), so each function is tied to its list: on bytes
that agree at the listed addresses, whatever they hold elsewhere, it gives the same answer. CHECKSUM_OK also reads its field
at 30 and 31 (R120), which the 30 bytes of R174 leave out. -/
def Obligations.ReadsAreBounded : Prop :=
  (∀ B : List Byte,
    (∀ a ∈ scanReads B, a < B.length) ∧ (scanReads B).length ≤ 2 * (B.length - 1) ∧
    (∀ p, locate B = some p → p + 32 ≤ B.length ∧ (frameAt B p).length = 32 ∧
      ∀ j, j < 32 → (frameAt B p)[j]? = B[p + j]?) ∧
    (∀ B' : List Byte, B'.length = B.length → (∀ a ∈ scanReads B, B'[a]? = B[a]?) →
      locate B' = locate B ∧ scanReads B' = scanReads B)) ∧
  (checksumReads.length = 30 ∧ (∀ j ∈ checksumReads, j < 32) ∧
    ∀ F G : List Byte, F.length = 32 → G.length = 32 → (∀ j ∈ checksumReads, F[j]? = G[j]?) →
      checksumSum F = checksumSum G ∧ (F[30]? = G[30]? → F[31]? = G[31]? → checksumOk F = checksumOk G)) ∧
  (decodeReads.length = 24 ∧ (∀ j ∈ decodeReads, j < 32) ∧
    ∀ F G : List Byte, (∀ j ∈ decodeReads, F[j]? = G[j]?) → decodeRecord F = decodeRecord G)

/-- R120, R121, R122: CHECKSUM_OK holds exactly when the exact sum of bytes 0 to 29 equals the big-endian number at 30 to
31; the sum is at most 7650 and fits in 13 bits. -/
def Obligations.ChecksumIsExactSum : Prop :=
  ∀ F : List Byte, F.length = 32 →
    (checksumOk F = true ↔
      ((List.range 30).map fun j => (byteAt F j).toNat).sum = 256 * (byteAt F 30).toNat + (byteAt F 31).toNat) ∧
    ((List.range 30).map fun j => (byteAt F j).toNat).sum ≤ 7650 ∧
    ((List.range 30).map fun j => (byteAt F j).toNat).sum < 2 ^ 13

/-- R125: one changed byte at 0 to 29 always invalidates; two changes that cancel keep a frame valid; a changed field
always invalidates, a field off by 256 and a byte swap among them; the extreme frames are valid. -/
def Obligations.ChecksumCornerCases : Prop :=
  (∀ F : List Byte, F.length = 32 → checksumOk F = true →
    (∀ j v, j < 30 → v ≠ byteAt F j → checksumOk (F.set j v) = false) ∧
    (∀ i j v w, i < 30 → j < 30 → i ≠ j →
      v.toNat + w.toNat = (byteAt F i).toNat + (byteAt F j).toNat →
      checksumOk ((F.set i v).set j w) = true) ∧
    (∀ v w, ¬(v = byteAt F 30 ∧ w = byteAt F 31) → checksumOk ((F.set 30 v).set 31 w) = false) ∧
    (byteAt F 30 ≠ byteAt F 31 → checksumOk ((F.set 30 (byteAt F 31)).set 31 (byteAt F 30)) = false) ∧
    checksumOk (F.set 30 (byteAt F 30 + 1#8)) = false) ∧
  checksumOk ([0x42#8, 0x4D#8] ++ List.replicate 28 0xFF#8 ++ [0x1C#8, 0x73#8]) = true ∧
  checksumOk ([0x42#8, 0x4D#8] ++ List.replicate 28 0x00#8 ++ [0x00#8, 0x8F#8]) = true

/-- R124: the validator does not test the marker, which every frame the locator passes on has; such a frame's sum lies in
143 to 7650, so a checksum field outside that range is never valid. -/
def Obligations.ChecksumFieldRange : Prop :=
  (∃ F : List Byte, F.length = 32 ∧ byteAt F 0 ≠ 0x42#8 ∧ checksumOk F = true) ∧
  (∀ B p, locate B = some p → byteAt (frameAt B p) 0 = 0x42#8 ∧ byteAt (frameAt B p) 1 = 0x4D#8) ∧
  (∀ F : List Byte, F.length = 32 → byteAt F 0 = 0x42#8 → byteAt F 1 = 0x4D#8 →
    0x8F ≤ checksumSum F ∧ checksumSum F ≤ 0x1DE2 ∧
    ((be16At F 30).toNat < 0x8F ∨ 0x1DE2 < (be16At F 30).toNat → checksumOk F = false))

/-- R140, R141: each field of the record is the unsigned big-endian number at its two offsets, in the table's order. -/
def Obligations.DecoderFollowsOffsetTable : Prop :=
  ∀ F : List Byte, F.length = 32 →
    let v := fun hi lo => 256 * (byteAt F hi).toNat + (byteAt F lo).toNat
    let r := decodeRecord F
    r.pm1_0_cf1.toNat = v 4 5 ∧ r.pm2_5_cf1.toNat = v 6 7 ∧ r.pm10_0_cf1.toNat = v 8 9 ∧
    r.pm1_0_atm.toNat = v 10 11 ∧ r.pm2_5_atm.toNat = v 12 13 ∧ r.pm10_0_atm.toNat = v 14 15 ∧
    r.cnt_0_3.toNat = v 16 17 ∧ r.cnt_0_5.toNat = v 18 19 ∧ r.cnt_1_0.toNat = v 20 21 ∧
    r.cnt_2_5.toNat = v 22 23 ∧ r.cnt_5_0.toNat = v 24 25 ∧ r.cnt_10_0.toNat = v 26 27

/-- R143: frames that agree at offsets 4 to 27 give the same record, whatever their other bytes. -/
def Obligations.DecoderReadsOnlyMeasurements : Prop :=
  ∀ F G : List Byte, (∀ j, 4 ≤ j → j ≤ 27 → byteAt F j = byteAt G j) → decodeRecord F = decodeRecord G

/-- R146: for every twelve values, the frame built from them is located, valid, and decoded to exactly those values,
whatever its length and reserved fields are. -/
def Obligations.BuiltFrameRoundTrips : Prop :=
  ∀ (r : Record) (len res : Half),
    (frameBytes (buildFrame r len res)).length = 32 ∧
    locate (frameBytes (buildFrame r len res)) = some 0 ∧
    frameAt (frameBytes (buildFrame r len res)) 0 = frameBytes (buildFrame r len res) ∧
    checksumOk (frameBytes (buildFrame r len res)) = true ∧
    decodeRecord (frameBytes (buildFrame r len res)) = r

/-- R145: field `j` of the record occupies bits `16j+15 .. 16j` of the 192-bit output. -/
def Obligations.RecordOutPacking : Prop :=
  ∀ (r : Record) (j : Nat) (v : Half), (recordList r)[j]? = some v → (recordPack r).extractLsb' (16 * j) 16 = v

/-! ### The buffer -/

/-- A read of the buffer after a write gives the byte written there and every other address as before; a write keeps the
canonical form. -/
def Obligations.BufferReadAfterWrite : Prop :=
  ∀ (m : Memory) (a b : Nat) (v : Byte),
    Memory.read (Memory.write m a v) b = (if b = a then some v else Memory.read m b) ∧
    (Memory.wf m → Memory.wf (Memory.write m a v))

/-- R41: the payload is written at `BUF_LEN` on in arrival order and `BUF_LEN` grows by its length; from an empty buffer
the buffer then holds exactly the payload. -/
def Obligations.AppendWritesPayloadInOrder : Prop :=
  ∀ (k : Instance) (data : List Byte),
    (∀ j, j < data.length → Memory.read (appendData data k).buf (k.bufLen + j) = data[j]?) ∧
    (∀ a, a < k.bufLen ∨ k.bufLen + data.length ≤ a →
      Memory.read (appendData data k).buf a = Memory.read k.buf a) ∧
    (appendData data k).bufLen = k.bufLen + data.length ∧
    (k.bufLen = 0 → bufBytes (appendData data k) = some data ∧ (appendData data k).bufLen = data.length ∧
      ∀ j, j < data.length → Memory.read (appendData data k).buf j = data[j]?)

/-! ### NOTIFY and the data frame (43_stream_dispatcher.md) -/

/-- R162, R163, R164: a NOTIFY on an unconfigured instance, for another channel, or with no bytes takes no action: only
its status is shown. -/
def Obligations.NotifyIgnoresWhatIsNotItsOwn : Prop :=
  ∀ (s : State) (k : Instance) (ch : Channel) (data : List Byte), s.Ready k →
    (k.cfgValid = false →
      exec (.notify ch data) s = .next (putInst s { k with statuses := k.statuses ++ [.ignoredUnconfigured] })) ∧
    (k.cfgValid = true → ch ≠ k.cfgChannel →
      exec (.notify ch data) s = .next (putInst s { k with statuses := k.statuses ++ [.ignoredChannel] })) ∧
    (k.cfgValid = true → ch = k.cfgChannel → data = [] →
      exec (.notify ch data) s = .next (putInst s { k with statuses := k.statuses ++ [.ignoredEmpty] }))

/-- R52: a NOTIFY of more bytes than `P_BUF_CAP` is refused; with an unbounded buffer none is refused on this ground. -/
def Obligations.NotifyBeyondCapacityRefused : Prop :=
  (∀ (s : State) (k : Instance) (data : List Byte) (c : Nat), s.Ready k → k.cfgValid = true →
    s.params.bufCap = some c → c < data.length →
    exec (.notify k.cfgChannel data) s = .refused .bufferCapacity) ∧
  (∀ (s : State) (ch : Channel) (data : List Byte), s.params.bufCap = none →
    exec (.notify ch data) s ≠ .refused .bufferCapacity)

/-- R166: where LOCATE finds nothing, the buffer is cleared, nothing is delivered, the status is FRAMING_ERROR. -/
def Obligations.FramingErrorDiscardsBuffer : Prop :=
  ∀ (s : State) (k : Instance) (data : List Byte), Cycle s k data → locate data = none →
    ∃ k', exec (.notify k.cfgChannel data) s = .next (putInst s k') ∧ k'.bufLen = 0 ∧ k'.recOut = none ∧ k'.deliveries = k.deliveries ∧
      k'.statuses = k.statuses ++ [.framingError] ∧ CycleFrame k k' data

/-- R167: where the candidate frame's checksum does not match, the buffer is cleared, nothing is delivered, the status is
INTEGRITY_ERROR; no later marker is tried. -/
def Obligations.IntegrityErrorDiscardsBuffer : Prop :=
  ∀ (s : State) (k : Instance) (data : List Byte) (p : Nat), Cycle s k data → locate data = some p →
    checksumOk ((data.drop p).take 32) = false →
    ∃ k', exec (.notify k.cfgChannel data) s = .next (putInst s k') ∧ k'.bufLen = 0 ∧ k'.recOut = none ∧ k'.deliveries = k.deliveries ∧
      k'.statuses = k.statuses ++ [.integrityError] ∧ CycleFrame k k' data

/-- R168: a valid frame whose record the consumer accepts is delivered once, the buffer is cleared, the status is
DELIVERED. -/
def Obligations.ValidFrameIsDelivered : Prop :=
  ∀ (s : State) (k : Instance) (data : List Byte) (p : Nat), Cycle s k data → locate data = some p →
    checksumOk ((data.drop p).take 32) = true → s.answers.accepts = true →
    ∃ k', exec (.notify k.cfgChannel data) s = .next (putInst s k') ∧ k'.bufLen = 0 ∧ k'.recOut = none ∧
      k'.deliveries = k.deliveries ++ [decodeRecord ((data.drop p).take 32)] ∧
      k'.statuses = k.statuses ++ [.delivered] ∧ CycleFrame k k' data

/-- R172: the NOTIFY does not complete until the consumer accepts: the record stays on `REC_OUT` and the buffer is not
cleared; whatever else the host does, short of a reset, leaves the instance so, and no later operation starts on it;
its acceptance delivers the record, clears the buffer and completes the NOTIFY. That the acceptance is an event of its own
is the model's choice (log 6), and that the record enters the delivery trace only then is its inference (log 7). -/
def Obligations.DeliveryWaitsForConsumer : Prop :=
  (∀ (s : State) (k : Instance) (data : List Byte) (p : Nat), Cycle s k data → locate data = some p →
    checksumOk ((data.drop p).take 32) = true → s.answers.accepts = false →
    ∃ k', exec (.notify k.cfgChannel data) s = .next (putInst s k') ∧ k'.recOut = some (decodeRecord ((data.drop p).take 32)) ∧
      k'.bufLen = data.length ∧ k'.deliveries = k.deliveries ∧ k'.statuses = k.statuses ∧ CycleFrame k k' data) ∧
  (∀ (s t : State) (n : Nat) (k : Instance) (r : Record), s.insts[n]? = some k → k.recOut = some r →
    step s = .next t → s.pending.head? ≠ some (.accept n) → t.insts[n]? = some k) ∧
  (∀ (s : State) (n : Nat) (k : Instance) (r : Record) (es : List Event), s.refusalMark = none →
    s.pending = .accept n :: es → s.insts[n]? = some k → k.recOut = some r →
    ∃ t k', step s = .next t ∧ t.insts = s.insts.set n k' ∧ k'.recOut = none ∧ k'.bufLen = 0 ∧
      k'.deliveries = k.deliveries ++ [r] ∧ k'.statuses = k.statuses ++ [.delivered] ∧ k'.buf = k.buf ∧
      k'.cfgValid = k.cfgValid ∧ k'.cfgChannel = k.cfgChannel ∧ k'.transmits = k.transmits ∧
      k'.results = k.results)

/-- R229: an operation issued on an instance while a NOTIFY waits for its consumer is refused, whichever it is. -/
def Obligations.BusyInstanceRefusesEveryOperation : Prop :=
  ∀ (s : State) (k : Instance) (r : Record) (i : Instr), s.insts[s.cur]? = some k → k.recOut = some r →
    exec i s = .refused .reentrant

/-- R64: a data frame is valid exactly when its checksum field is the sum of its first 30 bytes; no field value is
illegal. On a configured instance that accepts, its record is then delivered, and otherwise the status is
INTEGRITY_ERROR. That the row runs as a notification on the instance's own channel is the model's choice (log 2). -/
def Obligations.DataFrameDeliveredExactlyWhenValid : Prop :=
  ∀ (s : State) (k : Instance) (f : DataFrame), s.Ready k → k.bufLen = 0 → k.cfgValid = true →
    (∀ c, s.params.bufCap = some c → 32 ≤ c) → s.answers.accepts = true →
    ∃ k', exec (.dataFrame f) s = .next (putInst s k') ∧ k'.bufLen = 0 ∧ k'.recOut = none ∧
      CycleFrame k k' (frameBytes f) ∧
      (if ((List.range 30).map fun j => (byteAt (frameBytes f) j).toNat).sum = f.checksum.toNat then
        k'.deliveries = k.deliveries ++ [f.fields] ∧ k'.statuses = k.statuses ++ [.delivered]
       else k'.deliveries = k.deliveries ∧ k'.statuses = k.statuses ++ [.integrityError])

/-- A data frame runs as the NOTIFY of its 32 bytes on the instance's own channel, whatever follows from that. That it does
is the model's choice (log 2). -/
def Obligations.DataFrameRunsAsNotification : Prop :=
  ∀ (s : State) (k : Instance) (f : DataFrame), s.Ready k →
    exec (.dataFrame f) s = exec (.notify k.cfgChannel (frameBytes f)) s

/-- On an unconfigured instance a data frame is ignored, as a NOTIFY is (R162; log 2). -/
def Obligations.DataFrameIgnoredUnconfigured : Prop :=
  ∀ (s : State) (k : Instance) (f : DataFrame), s.Ready k → k.cfgValid = false →
    exec (.dataFrame f) s = .next (putInst s { k with statuses := k.statuses ++ [.ignoredUnconfigured] })

/-- R173, R225: each NOTIFY that completes shows exactly one status, the first of the table's conditions that applies, and
returns nothing to the caller; the capacity test comes after configuration, channel and empty payload, before framing;
the codes are the table's. -/
def Obligations.NotifyStatusTable : Prop :=
  (∀ (s t : State) (k k' : Instance) (ch : Channel) (data : List Byte), s.Ready k → k.bufLen = 0 →
    exec (.notify ch data) s = .next t → t.insts[t.cur]? = some k' → k'.recOut = none →
    k'.results = k.results ∧ k'.statuses = k.statuses ++
      [if k.cfgValid = false then .ignoredUnconfigured
       else if ch ≠ k.cfgChannel then .ignoredChannel
       else if data.length = 0 then .ignoredEmpty
       else match locate data with
        | none => .framingError
        | some p => if checksumOk ((data.drop p).take 32) = false then .integrityError else .delivered]) ∧
  (∀ (s : State) (k : Instance) (ch : Channel) (data : List Byte), s.Ready k →
    (exec (.notify ch data) s = .refused .bufferCapacity ↔
      k.cfgValid = true ∧ ch = k.cfgChannel ∧ data ≠ [] ∧ ∃ c, s.params.bufCap = some c ∧ c < data.length)) ∧
  [NotifyStatus.ignoredUnconfigured, .ignoredChannel, .ignoredEmpty, .framingError, .integrityError, .delivered].map
    statusCode = [0, 1, 2, 3, 4, 5]

/-- R171: a NOTIFY delivers, or offers, at most one record, and that record comes from 32 bytes of its own payload that
start with the marker and pass the checksum. -/
def Obligations.AtMostOneRecordFromOwnPayload : Prop :=
  ∀ (s t : State) (k k' : Instance) (ch : Channel) (data : List Byte), s.Ready k → k.bufLen = 0 →
    exec (.notify ch data) s = .next t → t.insts[t.cur]? = some k' →
    (k'.deliveries = k.deliveries ∧ k'.recOut = none) ∨
    ∃ p, p + 32 ≤ data.length ∧ MarkerAt data p ∧ checksumOk ((data.drop p).take 32) = true ∧
      ((k'.deliveries = k.deliveries ++ [decodeRecord ((data.drop p).take 32)] ∧ k'.recOut = none) ∨
       (k'.deliveries = k.deliveries ∧ k'.recOut = some (decodeRecord ((data.drop p).take 32))))

/-- R170, R175 (a): a notification of fewer than 32 bytes, such as any proper part of a frame, is a framing error whatever
its bytes, delivers nothing, and leaves the buffer empty. -/
def Obligations.ShortNotificationNeverDelivers : Prop :=
  ∀ (s : State) (k : Instance) (data : List Byte), Cycle s k data → data.length < 32 →
    ∃ k', exec (.notify k.cfgChannel data) s = .next (putInst s k') ∧ k'.bufLen = 0 ∧ k'.recOut = none ∧ k'.deliveries = k.deliveries ∧
      k'.statuses = k.statuses ++ [.framingError]

/-- R169: once the locator has found its frame, the bytes after the frame's 32 change nothing that is delivered or shown;
the bytes of the notification are not kept. -/
def Obligations.BytesAfterFrameDoNotMatter : Prop :=
  ∀ (s : State) (k : Instance) (data tail : List Byte) (p : Nat), Cycle s k data →
    Cycle s k (data.take (p + 32) ++ tail) →
    locate data = some p →
    ∃ k₁ k₂, exec (.notify k.cfgChannel data) s = .next (putInst s k₁) ∧
      exec (.notify k.cfgChannel (data.take (p + 32) ++ tail)) s = .next (putInst s k₂) ∧
      k₁.observables = k₂.observables ∧ k₁.recOut = k₂.recOut

/-- R107: a marker pair put in front of any frame hides it from the locator. -/
def Obligations.FalseMarkerHidesFrame : Prop :=
  ∀ F : List Byte, F.length = 32 → locate ([0x42#8, 0x4D#8] ++ F) = some 0

/-! ### INIT (44_host_operations.md) -/

/-- R190: INIT, line by line: refused on a configured instance; FAIL with no consumer, then with no device
configuration, then on a failed mode write; otherwise it configures the instance for the channel. The channel is one no
other configured instance has (R233). -/
def Obligations.InitFollowsItsPseudocode : Prop :=
  ∀ (s : State) (k : Instance) (ch : Channel) (sink : Bool) (mode : Mode), s.Ready k →
    (k.cfgValid = true → exec (.init ch sink mode) s = .refused .reinit) ∧
    (k.cfgValid = false → sink = false →
      exec (.init ch sink mode) s = .next (putInst s { k with results := k.results ++ [.fail] })) ∧
    (k.cfgValid = false → sink = true → s.answers.devCfgOk = false →
      exec (.init ch sink mode) s = .next (putInst s { k with results := k.results ++ [.fail] })) ∧
    (k.cfgValid = false → sink = true → s.answers.devCfgOk = true → ModeWriteFails s →
      exec (.init ch sink mode) s = .next (putInst s
        { k with results := k.results ++ [.fail], transmits := k.transmits ++ modeWrite s ch mode })) ∧
    (k.cfgValid = false → sink = true → s.answers.devCfgOk = true → ¬ ModeWriteFails s →
      (∀ j ∈ s.insts, j.cfgValid = true → j.cfgChannel ≠ ch) →
      exec (.init ch sink mode) s = .next (putInst s
        { k with cfgValid := true, cfgChannel := ch, bufLen := 0, results := k.results ++ [.ok],
                 transmits := k.transmits ++ modeWrite s ch mode }))

/-- R191: an INIT that answers FAIL changes no state: only its result is shown, and the mode write where it was reached.
It answers FAIL exactly where one of its tests fails, in whatever order they are made. -/
def Obligations.FailedInitAllocatesNothing : Prop :=
  ∀ (s t : State) (k k' : Instance) (ch : Channel) (sink : Bool) (mode : Mode), s.Ready k →
    exec (.init ch sink mode) s = .next t → t.insts[t.cur]? = some k' →
    ((k'.results = k.results ++ [.fail] ↔ sink = false ∨ s.answers.devCfgOk = false ∨ ModeWriteFails s) ∧
     (k'.results = k.results ++ [.fail] →
      k'.cfgValid = false ∧ k'.cfgChannel = k.cfgChannel ∧ k'.buf = k.buf ∧ k'.bufLen = k.bufLen ∧
      k'.recOut = k.recOut ∧ k'.deliveries = k.deliveries ∧ k'.statuses = k.statuses ∧
      (k'.transmits = k.transmits ∨
        (ModeWriteFails s ∧ k'.transmits = k.transmits ++ modeWrite s ch mode))))

/-- R193: an INIT on a configured instance is refused; after a reset of the instance it is not. -/
def Obligations.ReinitRefusedUntilReset : Prop :=
  (∀ (s : State) (k : Instance) (ch : Channel) (sink : Bool) (mode : Mode), s.Ready k → k.cfgValid = true →
    exec (.init ch sink mode) s = .refused .reinit) ∧
  (∀ (s t : State) (k : Instance) (es : List Event), s.refusalMark = none → s.pending = .reset s.cur :: es →
    s.Ready k → step s = .next t →
    ∀ (ch : Channel) (sink : Bool) (mode : Mode), exec (.init ch sink mode) t ≠ .refused .reinit)

/-- R233: the INIT that would configure a second instance for a channel is refused. -/
def Obligations.SharedChannelRefused : Prop :=
  ∀ (s : State) (k j : Instance) (ch : Channel) (mode : Mode), s.Ready k → k.cfgValid = false →
    s.answers.devCfgOk = true → ¬ ModeWriteFails s → j ∈ s.insts → j.cfgValid = true → j.cfgChannel = ch →
    exec (.init ch true mode) s = .refused .sharedChannel

/-! ### Commands (44_host_operations.md R194 to R200) -/

/-- R195, R196, R197, R198 with R194 and R199: on a configured instance each command hands its seven bytes, and no others,
to the sink of the configured channel, and answers OK exactly when the count is nonzero, a partial count included. -/
def Obligations.CommandsHandOverTheirFrame : Prop :=
  ∀ (s : State) (k : Instance) (i : Instr) (C : List Byte), (i, C) ∈ hostCommand → s.Ready k → k.cfgValid = true →
    exec i s = .next (putInst s
      { k with transmits := k.transmits ++ [(k.cfgChannel, C)],
               results := k.results ++ [if s.answers.written.val = 0 then .fail else .ok] })

/-- The five command frames as instructions do the same with their own bytes. That they run as CMD_TX (R194) is the
model's choice (log 1). -/
def Obligations.CommandFramesHandThemselvesOver : Prop :=
  ∀ (s : State) (k : Instance) (i : Instr) (C : List Byte), (i, C) ∈ frameCommand → s.Ready k → k.cfgValid = true →
    exec i s = .next (putInst s
      { k with transmits := k.transmits ++ [(k.cfgChannel, C)],
               results := k.results ++ [if s.answers.written.val = 0 then .fail else .ok] })

/-- On an unconfigured instance every command answers FAIL and hands nothing over: R21 and R194 say so of SET_MODE, SLEEP,
WAKEUP and REQUEST_READ; of the five command frames as instructions it is the model's choice (log 1). -/
def Obligations.CommandsFailUnconfigured : Prop :=
  ∀ (s : State) (k : Instance) (i : Instr) (C : List Byte), (i, C) ∈ hostCommand ++ frameCommand → s.Ready k →
    k.cfgValid = false → exec i s = .next (putInst s { k with results := k.results ++ [.fail] })

/-- The five command frames as instructions do what the command operations with those frames do, in every state: they reach
no state that an operation of R70 does not reach. That they run so is the model's choice (log 1). -/
def Obligations.CommandRowsAreTheirOperations : Prop :=
  ∀ s : State,
    exec .cmdSetPassive s = exec (.setMode .passive) s ∧ exec .cmdSetActive s = exec (.setMode .active) s ∧
    exec .cmdRequestRead s = exec .requestRead s ∧ exec .cmdSleep s = exec .sleep s ∧ exec .cmdWakeup s = exec .wakeup s

/-- R44: the core never receives a command frame. No bytes presented to an instance decode to a command frame's row; the
bytes of a command frame presented as a host transaction, whatever follows them, are an illegal encoding (R73), on a busy
instance too (log 20); they alone are no data frame; arriving in a notification they are a framing error (R166, R175 (a)) and
leave nothing behind. -/
def Obligations.CommandFramesAreNeverReceived : Prop :=
  (∀ (chW : Nat) (bs rest : List Byte) (i : Instr), decode chW .htx bs = .ok (i, rest) → i.command = none) ∧
  (∀ (s : State) (n : Nat) (C rest : List Byte) (a : Answers) (es : List Event), C ∈ commandFrames →
    s.refusalMark = none → s.pending = .present n (C ++ rest) a :: es → step s = .refused .illegalEncoding) ∧
  (∀ (chW : Nat) (C : List Byte), C ∈ commandFrames → decode chW .data32 C = .error .notADataFrame) ∧
  (∀ (s : State) (k : Instance) (C : List Byte), C ∈ commandFrames → Cycle s k C →
    ∃ k', exec (.notify k.cfgChannel C) s = .next (putInst s k') ∧ k'.bufLen = 0 ∧ k'.recOut = none ∧
      k'.deliveries = k.deliveries ∧ k'.statuses = k.statuses ++ [.framingError] ∧ CycleFrame k k' C)

/-- R200: no command writes the buffer, its length, `REC_OUT`, the configuration or what the receive path shows, and none
reads them: with any other buffer and receive outputs in the instance, a command does the same. The receive path reads
nothing that a command writes: with any other transmit trace and results in the instance, a NOTIFY does the same. -/
def Obligations.TransmitAndReceiveAreIndependent : Prop :=
  (∀ (s t : State) (k k' : Instance) (i : Instr) (C : List Byte), (i, C) ∈ hostCommand → s.Ready k →
    exec i s = .next t → t.insts[t.cur]? = some k' →
    k'.buf = k.buf ∧ (∀ a, Memory.read k'.buf a = Memory.read k.buf a) ∧ k'.bufLen = k.bufLen ∧ k'.recOut = k.recOut ∧
      k'.cfgValid = k.cfgValid ∧ k'.cfgChannel = k.cfgChannel ∧ k'.deliveries = k.deliveries ∧
      k'.statuses = k.statuses) ∧
  (∀ (s : State) (k k' : Instance) (i : Instr) (C : List Byte) (b : Memory) (n : Nat) (ds : List Record)
    (sts : List NotifyStatus), (i, C) ∈ hostCommand → s.Ready k → exec i s = .next (putInst s k') →
    exec i (putInst s { k with buf := b, bufLen := n, deliveries := ds, statuses := sts }) =
      .next (putInst s { k' with buf := b, bufLen := n, deliveries := ds, statuses := sts })) ∧
  (∀ (s : State) (k k' : Instance) (ch : Channel) (data : List Byte) (tx : List (Channel × List Byte))
    (rs : List OpResult), s.Ready k → exec (.notify ch data) s = .next (putInst s k') →
    exec (.notify ch data) (putInst s { k with transmits := tx, results := rs }) =
      .next (putInst s { k' with transmits := tx, results := rs }))

/-- R221: the codes of the four error classes; which NOTIFY statuses report one; and which class makes a command or INIT
answer FAIL (the caller sees only the result, R222). -/
def Obligations.ErrorClassesAndTheirReports : Prop :=
  [ErrorClass.transport, .framing, .integrity, .config].map errorCode = [1, 2, 3, 4] ∧
  [NotifyStatus.ignoredUnconfigured, .ignoredChannel, .ignoredEmpty, .framingError, .integrityError, .delivered].map
    statusError = [none, none, none, some .framing, some .integrity, none] ∧
  (∀ (v : Bool) (a : Answers),
    (commandError v a = some .config ↔ v = false) ∧
    (commandError v a = some .transport ↔ v = true ∧ a.written = 0)) ∧
  (∀ (p : Params) (sink : Bool) (a : Answers),
    (initError p sink a = some .config ↔ sink = false ∨ a.devCfgOk = false) ∧
    (initError p sink a = some .transport ↔ sink = true ∧ a.devCfgOk = true ∧ p.initSendsMode = true ∧
      p.initChecksModeWrite = true ∧ a.written = 0))

/-! ### All instructions -/

/-- R32: an operation touches only the instance it is presented to. -/
def Obligations.OtherInstancesUntouched : Prop :=
  ∀ (i : Instr) (s t : State), exec i s = .next t →
    t.insts.length = s.insts.length ∧ (∀ n, n ≠ s.cur → t.insts[n]? = s.insts[n]?) ∧
    t.params = s.params ∧ t.pending = s.pending ∧ t.cur = s.cur ∧ t.answers = s.answers ∧
    t.refusalMark = s.refusalMark

/-- R56: operations on different instances commute: in the other order they complete too, and every instance ends as
before. -/
def Obligations.OperationsOnDifferentInstancesCommute : Prop :=
  ∀ (s t u : State) (i j : Instr) (m n : Nat) (a b : Answers) (es : List Event), m ≠ n →
    exec i (fetched m a es s) = .next t → exec j (fetched n b es t) = .next u →
    ∃ t' u', exec j (fetched n b es s) = .next t' ∧ exec i (fetched m a es t') = .next u' ∧ u'.insts = u.insts

/-- R21, R251: an instance becomes configured only by an INIT that answers OK, and becomes unconfigured only by a reset. -/
def Obligations.OnlyInitConfiguresOnlyResetClears : Prop :=
  ∀ (s t : State) (n : Nat) (k k' : Instance), step s = .next t → s.insts[n]? = some k → t.insts[n]? = some k' →
    (k.cfgValid = true → k'.cfgValid = false → s.pending.head? = some (.reset n)) ∧
    (k.cfgValid = false → k'.cfgValid = true →
      k'.results = k.results ++ [.ok] ∧
      ∃ bs a es ch mode rest, s.pending = .present n bs a :: es ∧
        decode s.params.chW .htx bs = .ok (.init ch true mode, rest) ∧ k'.cfgChannel = ch)

/-- R222: INIT, SET_MODE, SLEEP, WAKEUP, REQUEST_READ that complete answer exactly one result and show no status; NOTIFY
answers the caller nothing. -/
def Obligations.OneResultPerCallerOperation : Prop :=
  ∀ (i : Instr) (s t : State) (k k' : Instance), s.Ready k → exec i s = .next t → t.insts[t.cur]? = some k' →
    ((∃ ch sink mode, i = .init ch sink mode) ∨ (∃ m, i = .setMode m) ∨ i = .sleep ∨ i = .wakeup ∨ i = .requestRead →
      (∃ r, k'.results = k.results ++ [r]) ∧ k'.statuses = k.statuses) ∧
    ((∃ ch data, i = .notify ch data) → k'.results = k.results)

/-- R68: an operation emits nothing, or exactly one of the five 7-byte sequences. -/
def Obligations.OnlyTheFiveFramesAreEmitted : Prop :=
  ∀ (i : Instr) (s t : State) (k k' : Instance), s.Ready k → exec i s = .next t → t.insts[t.cur]? = some k' →
    k'.transmits = k.transmits ∨
    ∃ ch C, k'.transmits = k.transmits ++ [(ch, C)] ∧
      C ∈ [[0x42#8, 0x4D#8, 0xE1#8, 0x00#8, 0x00#8, 0x01#8, 0x70#8], [0x42#8, 0x4D#8, 0xE1#8, 0x00#8, 0x01#8, 0x01#8, 0x71#8],
           [0x42#8, 0x4D#8, 0xE2#8, 0x00#8, 0x00#8, 0x01#8, 0x71#8], [0x42#8, 0x4D#8, 0xE4#8, 0x00#8, 0x00#8, 0x01#8, 0x73#8],
           [0x42#8, 0x4D#8, 0xE4#8, 0x00#8, 0x01#8, 0x01#8, 0x74#8]]

/-- R220, R238: from a state that meets the invariant an operation presented to an instance of the system never faults,
and is refused only as REENTRANT, REINIT, SHARED_CHANNEL or BUFFER_CAPACITY, each under its own condition. -/
def Obligations.OperationsStopOnlyAsRefusalsSay : Prop :=
  ∀ (i : Instr) (s : State) (k : Instance), s.Inv → s.insts[s.cur]? = some k →
    (∀ f, exec i s ≠ .fault f) ∧
    (∀ r, exec i s = .refused r →
      (r = .reentrant ∧ k.recOut ≠ none) ∨
      (r = .reinit ∧ (∃ ch sink mode, i = .init ch sink mode) ∧ k.cfgValid = true) ∨
      (r = .sharedChannel ∧ ∃ ch mode, i = .init ch true mode ∧ ∃ j ∈ s.insts, j.cfgValid = true ∧ j.cfgChannel = ch) ∨
      (r = .bufferCapacity ∧ ∃ data c, i = .notify k.cfgChannel data ∧ s.params.bufCap = some c ∧ c < data.length))

/-! ### Steps -/

/-- A step runs the decoded instruction: where the host's next event presents bytes that decode to `i`, the step is `exec`
of `i` on the instance they are presented to, with that event's draws; the event is gone, or holds the bytes after the
instruction. Where the event names a command frame, or is the arrival of a data frame, the step is `exec` of that frame's
row. With no event a step changes nothing. The model's choices: the list of events and the idle step (log 4), that the bytes
after an instruction are the next presentation with the same draws (log 19), the event that names a command frame (log 1),
and the arrival of a data frame (log 2). -/
def Obligations.StepRunsTheDecodedInstruction : Prop :=
  (∀ (s : State) (n : Nat) (bs rest : List Byte) (a : Answers) (es : List Event) (i : Instr),
    s.refusalMark = none → s.pending = .present n bs a :: es →
    decode s.params.chW .htx bs = .ok (i, rest) →
    step s = exec i { s with
      pending := if rest = [] then es else .present n rest a :: es, cur := n, answers := a }) ∧
  (∀ (s : State) (n : Nat) (c : Command) (a : Answers) (es : List Event), s.refusalMark = none →
    s.pending = .emit n c a :: es → step s = exec c.instr { s with pending := es, cur := n, answers := a }) ∧
  (∀ (s : State) (n : Nat) (f : DataFrame) (a : Answers) (es : List Event), s.refusalMark = none →
    s.pending = .arrive n f a :: es → step s = exec (.dataFrame f) { s with pending := es, cur := n, answers := a }) ∧
  (∀ s : State, s.refusalMark = none → s.pending = [] → step s = .next s)

/-- A step runs the word placed for it: where a word decodes to `i` in its encoding, any of the three, the very next step
after it is placed is `exec` of `i` on the current instance, with the draws the state holds and the refusal mark clear. How a
word is placed is the model's choice (log 22), and so is how it is laid out (log 3). -/
def Obligations.TableWordRunsItsInstruction : Prop :=
  ∀ (s : State) (nbits w : Nat) (i : Instr) (rest : List Byte),
    decode s.params.chW (tableFormat nbits) (tableBytes nbits w) = .ok (i, rest) →
    step (s.withFetchWord nbits w) = exec i { s with refusalMark := none }

/-- R238: a state without the mark refuses exactly where the bytes its next event presents spell no operation, as
ILLEGAL_ENCODING (before the instance is looked at, log 20), or where the instruction its next event runs is refused in the
state the step runs it in, and then for one of the other four reasons. When each of the four is met:
OperationsStopOnlyAsRefusalsSay. -/
def Obligations.RefusalsAreExactlyTheFive : Prop :=
  ∀ (s : State) (r : Refusal), s.refusalMark = none →
    (step s = .refused r ↔
      (r = .illegalEncoding ∧ ∃ n bs a es e, s.pending = .present n bs a :: es ∧
        decode s.params.chW .htx bs = .error e) ∨
      ((r = .bufferCapacity ∨ r = .reinit ∨ r = .reentrant ∨ r = .sharedChannel) ∧
        ∃ i s', Runs s i s' ∧ exec i s' = .refused r))

/-- R12, R238: a refusal sets the mark, and a state with the mark refuses again at every step, for the same reason. How
the mark is held is the model's choice (log 13). -/
def Obligations.RefusalMarkIsKept : Prop :=
  (∀ (s : State) (r : Refusal), step s = .refused r → s.advance.refusalMark = some r ∧ s.advance.insts = s.insts) ∧
  (∀ (s : State) (r : Refusal), s.refusalMark = some r → step s = .refused r ∧ s.advance = s)

/-- A reset while an operation is in progress has no meaning (R251, D31): it faults (log 15), and so does whatever is
addressed to an instance the system does not have: an acceptance, a reset, an operation presented or named, a data
frame that arrives, and every instruction (log 16). -/
def Obligations.MeaninglessEventsFault : Prop :=
  (∀ (s : State) (n : Nat) (k : Instance) (r : Record) (es : List Event), s.refusalMark = none →
    s.pending = .reset n :: es → s.insts[n]? = some k → k.recOut = some r → step s = .fault .resetInProgress) ∧
  (∀ (s : State) (n : Nat) (es : List Event), s.refusalMark = none → s.insts.length ≤ n →
    (s.pending = .accept n :: es ∨ s.pending = .reset n :: es) → step s = .fault .noSuchInstance) ∧
  (∀ (s : State) (n : Nat) (bs rest : List Byte) (a : Answers) (es : List Event) (i : Instr),
    s.refusalMark = none → s.insts.length ≤ n → s.pending = .present n bs a :: es →
    decode s.params.chW .htx bs = .ok (i, rest) → step s = .fault .noSuchInstance) ∧
  (∀ (s : State) (n : Nat) (c : Command) (a : Answers) (es : List Event), s.refusalMark = none → s.insts.length ≤ n →
    s.pending = .emit n c a :: es → step s = .fault .noSuchInstance) ∧
  (∀ (s : State) (n : Nat) (f : DataFrame) (a : Answers) (es : List Event), s.refusalMark = none → s.insts.length ≤ n →
    s.pending = .arrive n f a :: es → step s = .fault .noSuchInstance) ∧
  (∀ (s : State) (i : Instr), s.insts.length ≤ s.cur → exec i s = .fault .noSuchInstance)

/-- R34, with the elements R20 calls unspecified and unread: no hidden state is observable. Two systems that differ only
in the bytes of empty buffers and in the channels of unconfigured instances take the same step: the same stop, or next
states that again differ only so. -/
def Obligations.HiddenStateIsNeverObserved : Prop :=
  ∀ s t : State, State.SameOutside s t → outcomesMatch (step s) (step t)
end

