-- ==== Sys2Proof/Laws/Extractor.lean ====
section
/-! SUPPORT. The operand forms and the three pure components: big-endian fields, the locator's scan, sums of bytes. -/

namespace Sys2Proof.Machine

/-! ### Big-endian fields (R13, R47) -/

/-- `be16` as a number: `hi * 256 + lo` (R13). -/
theorem be16_toNat (hi lo : Byte) : (be16 hi lo).toNat = 256 * hi.toNat + lo.toNat := by
  rw [be16, BitVec.toNat_append, Nat.shiftLeft_eq, ← Nat.mul_comm]
  rw [Nat.mul_comm, Nat.mul_comm hi.toNat]
  rw [← Nat.two_pow_add_eq_or_of_lt lo.isLt]

/-- Composing the two bytes of a field gives the field back (R74). -/
theorem be16_beBytes (x : Half) : be16 (x.extractLsb' 8 8) (x.extractLsb' 0 8) = x := by
  apply BitVec.eq_of_toNat_eq
  rw [be16_toNat]
  have := x.isLt
  simp only [BitVec.extractLsb'_toNat, Nat.shiftRight_eq_div_pow]
  omega

/-- A field has one pair of bytes. -/
theorem be16_inj {a b c d : Byte} : be16 a b = be16 c d ↔ a = c ∧ b = d := by
  constructor
  · intro h
    have h' := congrArg BitVec.toNat h
    rw [be16_toNat, be16_toNat] at h'
    have := b.isLt; have := d.isLt
    exact ⟨BitVec.eq_of_toNat_eq (by omega), BitVec.eq_of_toNat_eq (by omega)⟩
  · rintro ⟨rfl, rfl⟩; rfl

/-- The bytes of a composed field. -/
theorem beBytes_be16 (hi lo : Byte) : beBytes (be16 hi lo) = [hi, lo] := by
  have h := be16_beBytes (be16 hi lo)
  obtain ⟨h1, h2⟩ := be16_inj.mp h
  simp only [beBytes, h1, h2]

@[simp] theorem beBytes_length (x : Half) : (beBytes x).length = 2 := rfl

/-! ### Frames as bytes -/

@[simp] theorem frameBytes_length (f : DataFrame) : (frameBytes f).length = 32 := rfl

@[simp] theorem frameBody_length (f : DataFrame) : (frameBody f).length = 30 := rfl

/-- The body of a frame is the first 30 of its bytes (R123). -/
theorem frameBytes_take (f : DataFrame) : (frameBytes f).take 30 = frameBody f := rfl

/-- The checksum field of a frame (R60). -/
theorem frameBytes_checksum (f : DataFrame) : be16At (frameBytes f) 30 = f.checksum := be16_beBytes _

/-- The fields of a frame are decoded as they were put in (R146). -/
theorem frameBytes_record (f : DataFrame) : decodeRecord (frameBytes f) = f.fields := by
  obtain ⟨l, ⟨⟩, r, c⟩ := f
  simp [decodeRecord, be16At, byteAt, frameBytes, frameBody, recordList, beBytes, be16_beBytes]

@[simp] theorem byteSum_nil : byteSum [] = 0 := rfl

@[simp] theorem byteSum_cons (b : Byte) (bs : List Byte) : byteSum (b :: bs) = b.toNat + byteSum bs := by
  simp [byteSum]

theorem byteSum_append (xs ys : List Byte) : byteSum (xs ++ ys) = byteSum xs + byteSum ys := by
  simp [byteSum]

/-- A sum of bytes is at most 255 for each (R121). -/
theorem byteSum_le (bs : List Byte) : byteSum bs ≤ 255 * bs.length := by
  induction bs with
  | nil => simp
  | cons b bs ih =>
    have := b.isLt
    simp only [byteSum_cons, List.length_cons]; omega

/-- Changing one byte changes the sum by the difference (R125). -/
theorem byteSum_set {bs : List Byte} {k : Nat} (v : Byte) (h : k < bs.length) :
    byteSum (bs.set k v) + (byteAt bs k).toNat = byteSum bs + v.toNat := by
  induction bs generalizing k with
  | nil => cases h
  | cons b bs ih =>
    cases k with
    | zero => simp [byteAt]; omega
    | succ k =>
      have := ih (k := k) (by simpa using h)
      simp [byteAt] at this ⊢; omega

/-! ### The scan (R101 to R104) -/

/-- A qualifying marker at position `q` of the bytes: the marker, and 32 bytes from it to the end (R104). -/
abbrev Qualifies (B : List Byte) (q : Nat) : Prop :=
  q + 32 ≤ B.length ∧ B[q]? = some mark0 ∧ B[q + 1]? = some mark1

/-- The scan finds the least qualifying marker (R104). -/
theorem locateFrom_eq_some {B : List Byte} {p r : Nat} :
    locateFrom p B = some r ↔ ∃ q, r = p + q ∧ Qualifies B q ∧ ∀ j < q, ¬ Qualifies B j := by
  induction B generalizing p with
  | nil => simp [locateFrom, Qualifies]
  | cons a B ih =>
    cases B with
    | nil => simp [locateFrom, Qualifies]
    | cons b rest =>
      have hzero : (a = mark0 ∧ b = mark1 ∧ frameLen ≤ rest.length + 2) ↔ Qualifies (a :: b :: rest) 0 := by
        simp only [Qualifies, frameLen, List.length_cons, List.getElem?_cons_zero, Option.some.injEq,
          List.getElem?_cons_succ, Nat.zero_add]
        constructor
        · rintro ⟨h1, h2, h3⟩; exact ⟨h3, h1, h2⟩
        · rintro ⟨h3, h1, h2⟩; exact ⟨h1, h2, h3⟩
      have hsucc : ∀ j, Qualifies (a :: b :: rest) (j + 1) ↔ Qualifies (b :: rest) j := by
        intro j
        simp only [Qualifies, List.length_cons, List.getElem?_cons_succ]
        constructor <;> rintro ⟨h1, h2⟩ <;> exact ⟨by omega, h2⟩
      rw [locateFrom]
      split
      · rename_i h
        rw [hzero] at h
        constructor
        · intro hr
          exact ⟨0, by simpa using hr.symm, h, by simp⟩
        · rintro ⟨q, hr, -, hq⟩
          cases q with
          | zero => simp [hr]
          | succ q => exact absurd h (hq 0 (by omega))
      · rename_i h
        rw [hzero] at h
        rw [ih]
        constructor
        · rintro ⟨q, hr, hq, hleast⟩
          refine ⟨q + 1, by omega, (hsucc q).mpr hq, fun j hj => ?_⟩
          cases j with
          | zero => exact h
          | succ j => exact fun hc => hleast j (by omega) ((hsucc j).mp hc)
        · rintro ⟨q, hr, hq, hleast⟩
          cases q with
          | zero => exact absurd hq h
          | succ q =>
            exact ⟨q, by omega, (hsucc q).mp hq, fun j hj hc => hleast (j + 1) (by omega) ((hsucc j).mpr hc)⟩

/-- What LOCATE finds (R104). -/
theorem locate_eq_some {B : List Byte} {p : Nat} :
    locate B = some p ↔ Qualifies B p ∧ ∀ j < p, ¬ Qualifies B j := by
  simp [locate, locateFrom_eq_some]

/-- LOCATE finds nothing exactly where nothing qualifies (R104). -/
theorem locate_eq_none {B : List Byte} : locate B = none ↔ ∀ q, ¬ Qualifies B q := by
  constructor
  · intro h q
    induction q using Nat.strong_induction_on with
    | _ q ih =>
      intro hq
      have := locate_eq_some.mpr ⟨hq, ih⟩
      simp [h] at this
  · intro h
    cases hl : locate B with
    | none => rfl
    | some p => exact absurd (locate_eq_some.mp hl).1 (h p)

/-- The frame LOCATE's position names has 32 bytes (R43). -/
theorem frameAt_length {B : List Byte} {p : Nat} (h : p + 32 ≤ B.length) : (frameAt B p).length = 32 := by
  simp [frameAt, frameLen]; omega

/-- Byte `k` of the frame is byte `p + k` of the buffer (R43). -/
theorem byteAt_frameAt {B : List Byte} {p k : Nat} (hk : k < 32) : byteAt (frameAt B p) k = byteAt B (p + k) := by
  simp [byteAt, frameAt, frameLen, List.getD, hk]

/-- A frame is located at the front of its own bytes (R105 (b)). -/
theorem locate_frameBytes (f : DataFrame) : locate (frameBytes f) = some 0 :=
  locate_eq_some.mpr ⟨⟨by simp, rfl, rfl⟩, by simp⟩

theorem frameAt_frameBytes (f : DataFrame) : frameAt (frameBytes f) 0 = frameBytes f := rfl

end Sys2Proof.Machine
end

