-- ==== Sys2Proof/Laws/Decode.lean ====
section
/-! SUPPORT. The header byte, the parts of a transaction and the parts of a data frame, as the decoder reads them and the
encoder writes them. -/

namespace Sys2Proof

open Machine

/-! ### The header byte (R70) -/

theorem headerOp_header (op : Fin 8) (m s : Bool) : headerOp (header op m s) = op := by
  revert op m s; decide

theorem headerM_header (op : Fin 8) (m s : Bool) : headerM (header op m s) = m := by
  revert op m s; decide

theorem headerS_header (op : Fin 8) (m s : Bool) : headerS (header op m s) = s := by
  revert op m s; decide

theorem headerReserved_header (op : Fin 8) (m s : Bool) : headerReserved (header op m s) = 0 := by
  revert op m s; decide

/-- A header whose reserved bits are 0 is its three fields (R70). -/
theorem header_of_fields (h : Byte) (hr : headerReserved h = 0) :
    h = header (headerOp h) (headerM h) (headerS h) := by
  have hall : ∀ n : Fin 256, headerReserved (BitVec.ofFin n) = 0 →
      BitVec.ofFin n = header (headerOp (BitVec.ofFin n)) (headerM (BitVec.ofFin n)) (headerS (BitVec.ofFin n)) := by
    decide +kernel
  exact hall h.toFin hr

/-- `op` is a three-bit number (R70). -/
theorem headerOp_lt (h : Byte) : headerOp h < 8 := BitVec.isLt _

@[simp] theorem modeOfBit_modeBit (m : Mode) : modeOfBit (modeBit m) = m := by cases m <;> rfl

@[simp] theorem modeBit_modeOfBit (b : Bool) : modeBit (modeOfBit b) = b := by cases b <;> rfl

/-- A channel that does not fit has a bit set at or above `P_CH_W` (R71, R73). -/
theorem not_channelFits_of_bit {chW j : Nat} {ch : Channel} (hj : chW ≤ j) (hb : ch.getLsbD j = true) :
    channelFits chW ch = false := by
  have : 2 ^ j ≤ ch.toNat := by
    rw [BitVec.getLsbD] at hb
    exact Nat.ge_two_pow_of_testBit hb
  have h2 : 2 ^ chW ≤ 2 ^ j := Nat.pow_le_pow_right (by decide) hj
  simp only [channelFits, decide_eq_false_iff_not, Nat.not_lt]
  omega

/-! ### The payload length (R71) -/

/-- A payload length below 65536 is read back from its two bytes. -/
theorem nlen_roundtrip {n : Nat} (h : n < 65536) :
    (be16 ((BitVec.ofNat 16 n).extractLsb' 8 8) ((BitVec.ofNat 16 n).extractLsb' 0 8)).toNat = n := by
  rw [be16_beBytes, BitVec.toNat_ofNat, Nat.mod_eq_of_lt h]

/-- The two bytes of a length are the encoding of the number they spell. -/
theorem beBytes_nlen (n1 n0 : Byte) : beBytes (BitVec.ofNat 16 (be16 n1 n0).toNat) = [n1, n0] := by
  rw [BitVec.ofNat_toNat, BitVec.setWidth_eq, beBytes_be16]

/-! ### The data frame (R60) -/

/-- The operands of a frame are read back from its bytes. -/
theorem parseFrame_frameBytes (f : DataFrame) : parseFrame (frameBytes f) = f := by
  have h1 := frameBytes_record f
  have h2 := frameBytes_checksum f
  obtain ⟨l, r, rs, c⟩ := f
  have h3 : be16At (frameBytes ⟨l, r, rs, c⟩) 2 = l := be16_beBytes l
  have h4 : be16At (frameBytes ⟨l, r, rs, c⟩) 28 = rs := be16_beBytes rs
  simp only [parseFrame, h1, h2, h3, h4]

/-- Thirty-two bytes that start with the marker are the bytes of the frame they are parsed as. -/
theorem frameBytes_parseFrame {F : List Byte} (hl : F.length = 32) (h0 : byteAt F 0 = mark0)
    (h1 : byteAt F 1 = mark1) : frameBytes (parseFrame F) = F := by
  apply List.ext_getElem
  · simp [hl]
  · intro k hk hk'
    have hb : ∀ j, (hj : j < F.length) → byteAt F j = F[j] := fun j hj => by
      simp [byteAt, List.getD, hj]
    have key : frameBytes (parseFrame F) = (List.range 32).map (byteAt F) := by
      simp only [frameBytes, frameBody, parseFrame, decodeRecord, recordList, be16At, beBytes_be16, List.flatMap_cons,
        List.flatMap_nil, ← h0, ← h1]
      rfl
    simp [key, hb k hk']

end Sys2Proof
end

