-- ==== Sys2Proof/Laws/State.lean ====
section
/-! SUPPORT. What each update of an instance and of the system does to each field: one lemma per field per update. -/

namespace Sys2Proof.Machine

/-! ### `reportResult` -/

@[simp] theorem reportResult_cfgValid (r : OpResult) (k : Instance) : (reportResult r k).cfgValid = k.cfgValid := rfl
@[simp] theorem reportResult_cfgChannel (r : OpResult) (k : Instance) : (reportResult r k).cfgChannel = k.cfgChannel := rfl
@[simp] theorem reportResult_buf (r : OpResult) (k : Instance) : (reportResult r k).buf = k.buf := rfl
@[simp] theorem reportResult_bufLen (r : OpResult) (k : Instance) : (reportResult r k).bufLen = k.bufLen := rfl
@[simp] theorem reportResult_recOut (r : OpResult) (k : Instance) : (reportResult r k).recOut = k.recOut := rfl
@[simp] theorem reportResult_deliveries (r : OpResult) (k : Instance) : (reportResult r k).deliveries = k.deliveries := rfl
@[simp] theorem reportResult_transmits (r : OpResult) (k : Instance) : (reportResult r k).transmits = k.transmits := rfl
@[simp] theorem reportResult_results (r : OpResult) (k : Instance) : (reportResult r k).results = k.results ++ [r] := rfl
@[simp] theorem reportResult_statuses (r : OpResult) (k : Instance) : (reportResult r k).statuses = k.statuses := rfl

/-! ### `reportStatus` -/

@[simp] theorem reportStatus_cfgValid (st : NotifyStatus) (k : Instance) : (reportStatus st k).cfgValid = k.cfgValid := rfl
@[simp] theorem reportStatus_cfgChannel (st : NotifyStatus) (k : Instance) : (reportStatus st k).cfgChannel = k.cfgChannel := rfl
@[simp] theorem reportStatus_buf (st : NotifyStatus) (k : Instance) : (reportStatus st k).buf = k.buf := rfl
@[simp] theorem reportStatus_bufLen (st : NotifyStatus) (k : Instance) : (reportStatus st k).bufLen = k.bufLen := rfl
@[simp] theorem reportStatus_recOut (st : NotifyStatus) (k : Instance) : (reportStatus st k).recOut = k.recOut := rfl
@[simp] theorem reportStatus_deliveries (st : NotifyStatus) (k : Instance) : (reportStatus st k).deliveries = k.deliveries := rfl
@[simp] theorem reportStatus_transmits (st : NotifyStatus) (k : Instance) : (reportStatus st k).transmits = k.transmits := rfl
@[simp] theorem reportStatus_results (st : NotifyStatus) (k : Instance) : (reportStatus st k).results = k.results := rfl
@[simp] theorem reportStatus_statuses (st : NotifyStatus) (k : Instance) : (reportStatus st k).statuses = k.statuses ++ [st] := rfl

/-! ### `clearBuf` -/

@[simp] theorem clearBuf_cfgValid (k : Instance) : (clearBuf k).cfgValid = k.cfgValid := rfl
@[simp] theorem clearBuf_cfgChannel (k : Instance) : (clearBuf k).cfgChannel = k.cfgChannel := rfl
@[simp] theorem clearBuf_buf (k : Instance) : (clearBuf k).buf = k.buf := rfl
@[simp] theorem clearBuf_bufLen (k : Instance) : (clearBuf k).bufLen = 0 := rfl
@[simp] theorem clearBuf_recOut (k : Instance) : (clearBuf k).recOut = k.recOut := rfl
@[simp] theorem clearBuf_deliveries (k : Instance) : (clearBuf k).deliveries = k.deliveries := rfl
@[simp] theorem clearBuf_transmits (k : Instance) : (clearBuf k).transmits = k.transmits := rfl
@[simp] theorem clearBuf_results (k : Instance) : (clearBuf k).results = k.results := rfl
@[simp] theorem clearBuf_statuses (k : Instance) : (clearBuf k).statuses = k.statuses := rfl

/-! ### `transmit` -/

@[simp] theorem transmit_cfgValid (ch : Channel) (C : List Byte) (k : Instance) : (transmit ch C k).cfgValid = k.cfgValid := rfl
@[simp] theorem transmit_cfgChannel (ch : Channel) (C : List Byte) (k : Instance) : (transmit ch C k).cfgChannel = k.cfgChannel := rfl
@[simp] theorem transmit_buf (ch : Channel) (C : List Byte) (k : Instance) : (transmit ch C k).buf = k.buf := rfl
@[simp] theorem transmit_bufLen (ch : Channel) (C : List Byte) (k : Instance) : (transmit ch C k).bufLen = k.bufLen := rfl
@[simp] theorem transmit_recOut (ch : Channel) (C : List Byte) (k : Instance) : (transmit ch C k).recOut = k.recOut := rfl
@[simp] theorem transmit_deliveries (ch : Channel) (C : List Byte) (k : Instance) : (transmit ch C k).deliveries = k.deliveries := rfl
@[simp] theorem transmit_transmits (ch : Channel) (C : List Byte) (k : Instance) : (transmit ch C k).transmits = k.transmits ++ [(ch, C)] := rfl
@[simp] theorem transmit_results (ch : Channel) (C : List Byte) (k : Instance) : (transmit ch C k).results = k.results := rfl
@[simp] theorem transmit_statuses (ch : Channel) (C : List Byte) (k : Instance) : (transmit ch C k).statuses = k.statuses := rfl

/-! ### `appendData` -/

@[simp] theorem appendData_cfgValid (data : List Byte) (k : Instance) : (appendData data k).cfgValid = k.cfgValid := rfl
@[simp] theorem appendData_cfgChannel (data : List Byte) (k : Instance) : (appendData data k).cfgChannel = k.cfgChannel := rfl
@[simp] theorem appendData_buf (data : List Byte) (k : Instance) : (appendData data k).buf = Memory.append k.buf k.bufLen data := rfl
@[simp] theorem appendData_bufLen (data : List Byte) (k : Instance) : (appendData data k).bufLen = k.bufLen + data.length := rfl
@[simp] theorem appendData_recOut (data : List Byte) (k : Instance) : (appendData data k).recOut = k.recOut := rfl
@[simp] theorem appendData_deliveries (data : List Byte) (k : Instance) : (appendData data k).deliveries = k.deliveries := rfl
@[simp] theorem appendData_transmits (data : List Byte) (k : Instance) : (appendData data k).transmits = k.transmits := rfl
@[simp] theorem appendData_results (data : List Byte) (k : Instance) : (appendData data k).results = k.results := rfl
@[simp] theorem appendData_statuses (data : List Byte) (k : Instance) : (appendData data k).statuses = k.statuses := rfl

/-! ### `completeDelivery` -/

@[simp] theorem completeDelivery_cfgValid (r : Record) (k : Instance) : (completeDelivery r k).cfgValid = k.cfgValid := rfl
@[simp] theorem completeDelivery_cfgChannel (r : Record) (k : Instance) : (completeDelivery r k).cfgChannel = k.cfgChannel := rfl
@[simp] theorem completeDelivery_buf (r : Record) (k : Instance) : (completeDelivery r k).buf = k.buf := rfl
@[simp] theorem completeDelivery_bufLen (r : Record) (k : Instance) : (completeDelivery r k).bufLen = 0 := rfl
@[simp] theorem completeDelivery_recOut (r : Record) (k : Instance) : (completeDelivery r k).recOut = none := rfl
@[simp] theorem completeDelivery_deliveries (r : Record) (k : Instance) : (completeDelivery r k).deliveries = k.deliveries ++ [r] := rfl
@[simp] theorem completeDelivery_transmits (r : Record) (k : Instance) : (completeDelivery r k).transmits = k.transmits := rfl
@[simp] theorem completeDelivery_results (r : Record) (k : Instance) : (completeDelivery r k).results = k.results := rfl
@[simp] theorem completeDelivery_statuses (r : Record) (k : Instance) : (completeDelivery r k).statuses = k.statuses ++ [.delivered] := rfl

/-! ### `putInst` -/

@[simp] theorem putInst_params (s : State) (k : Instance) : (putInst s k).params = s.params := rfl
@[simp] theorem putInst_insts (s : State) (k : Instance) : (putInst s k).insts = s.insts.set s.cur k := rfl
@[simp] theorem putInst_pending (s : State) (k : Instance) : (putInst s k).pending = s.pending := rfl
@[simp] theorem putInst_cur (s : State) (k : Instance) : (putInst s k).cur = s.cur := rfl
@[simp] theorem putInst_answers (s : State) (k : Instance) : (putInst s k).answers = s.answers := rfl
@[simp] theorem putInst_refusalMark (s : State) (k : Instance) : (putInst s k).refusalMark = s.refusalMark := rfl

/-! ### `fetched` -/

@[simp] theorem fetched_params (n : Nat) (a : Answers) (es : List Event) (s : State) : (fetched n a es s).params = s.params := rfl
@[simp] theorem fetched_insts (n : Nat) (a : Answers) (es : List Event) (s : State) : (fetched n a es s).insts = s.insts := rfl
@[simp] theorem fetched_pending (n : Nat) (a : Answers) (es : List Event) (s : State) : (fetched n a es s).pending = es := rfl
@[simp] theorem fetched_cur (n : Nat) (a : Answers) (es : List Event) (s : State) : (fetched n a es s).cur = n := rfl
@[simp] theorem fetched_answers (n : Nat) (a : Answers) (es : List Event) (s : State) : (fetched n a es s).answers = a := rfl
@[simp] theorem fetched_refusalMark (n : Nat) (a : Answers) (es : List Event) (s : State) : (fetched n a es s).refusalMark = s.refusalMark := rfl

/-! ### `State.markRefused` -/

@[simp] theorem markRefused_params (s : State) (r : Refusal) : (s.markRefused r).params = s.params := rfl
@[simp] theorem markRefused_insts (s : State) (r : Refusal) : (s.markRefused r).insts = s.insts := rfl
@[simp] theorem markRefused_pending (s : State) (r : Refusal) : (s.markRefused r).pending = s.pending := rfl
@[simp] theorem markRefused_cur (s : State) (r : Refusal) : (s.markRefused r).cur = s.cur := rfl
@[simp] theorem markRefused_answers (s : State) (r : Refusal) : (s.markRefused r).answers = s.answers := rfl
@[simp] theorem markRefused_refusalMark (s : State) (r : Refusal) : (s.markRefused r).refusalMark = some r := rfl

/-! ### `State.withFetchWord` -/

@[simp] theorem withFetchWord_params (s : State) (nbits w : Nat) : (s.withFetchWord nbits w).params = s.params := rfl
@[simp] theorem withFetchWord_insts (s : State) (nbits w : Nat) : (s.withFetchWord nbits w).insts = s.insts := rfl
@[simp] theorem withFetchWord_pending (s : State) (nbits w : Nat) : (s.withFetchWord nbits w).pending = tableEvents s nbits w ++ s.pending := rfl
@[simp] theorem withFetchWord_cur (s : State) (nbits w : Nat) : (s.withFetchWord nbits w).cur = s.cur := rfl
@[simp] theorem withFetchWord_answers (s : State) (nbits w : Nat) : (s.withFetchWord nbits w).answers = s.answers := rfl
@[simp] theorem withFetchWord_refusalMark (s : State) (nbits w : Nat) : (s.withFetchWord nbits w).refusalMark = none := rfl

/-! ### `State.resetWith` -/

@[simp] theorem resetWith_params (p : Params) (n : Nat) : (State.resetWith p n).params = p := rfl
@[simp] theorem resetWith_insts (p : Params) (n : Nat) : (State.resetWith p n).insts = List.replicate n Instance.reset := rfl
@[simp] theorem resetWith_pending (p : Params) (n : Nat) : (State.resetWith p n).pending = [] := rfl
@[simp] theorem resetWith_cur (p : Params) (n : Nat) : (State.resetWith p n).cur = 0 := rfl
@[simp] theorem resetWith_answers (p : Params) (n : Nat) : (State.resetWith p n).answers = Answers.reset := rfl
@[simp] theorem resetWith_refusalMark (p : Params) (n : Nat) : (State.resetWith p n).refusalMark = none := rfl

/-! ### Collapsing updates -/

@[simp] theorem putInst_putInst (s : State) (k j : Instance) : putInst (putInst s k) j = putInst s j := by
  simp [putInst]

/-- The instance an operation runs on holds the value just put there. -/
theorem putInst_current {s : State} {k : Instance} (j : Instance) (h : s.insts[s.cur]? = some k) :
    (putInst s j).insts[(putInst s j).cur]? = some j := by
  have : s.cur < s.insts.length := by
    rcases List.getElem?_eq_some_iff.mp h with ⟨h', -⟩; exact h'
  simp [this]

/-- Putting the current instance back changes nothing. -/
theorem putInst_self {s : State} {k : Instance} (h : s.insts[s.cur]? = some k) : putInst s k = s := by
  obtain ⟨hlt, hk⟩ := List.getElem?_eq_some_iff.mp h
  have : s.insts.set s.cur k = s.insts := by rw [← hk]; exact List.set_getElem_self hlt
  simp [putInst, this]

/-- Every instance but the current one is as it was (R32). -/
theorem putInst_other (s : State) (j : Instance) {n : Nat} (h : n ≠ s.cur) :
    (putInst s j).insts[n]? = s.insts[n]? := by
  simp [Ne.symm h]

/-- An instance of the updated system is the new value or an instance it had. -/
theorem mem_putInst {s : State} {j i : Instance} (h : i ∈ (putInst s j).insts) : i = j ∨ i ∈ s.insts :=
  (List.mem_or_eq_of_mem_set h).symm

@[simp] theorem busy_iff (k : Instance) : busy k = true ↔ k.recOut ≠ none := by
  cases h : k.recOut <;> simp [busy, h]

@[simp] theorem busy_eq_false_iff (k : Instance) : busy k = false ↔ k.recOut = none := by
  cases h : k.recOut <;> simp [busy, h]

end Sys2Proof.Machine
end

