-- ==== Sys2Proof/Laws/Memory.lean ====
section
/-! SUPPORT. The buffer space: what a read gives after writes, and that every operation keeps the canonical form. -/

namespace Sys2Proof.Machine

theorem read_write_same (m : Memory) (a : Nat) (v : Byte) : Memory.read (Memory.write m a v) a = some v := by
  induction m with
  | nil => simp [Memory.write, Memory.read]
  | cons c m ih =>
    obtain ⟨b, w⟩ := c
    rcases Nat.lt_trichotomy a b with h | h | h
    · simp [Memory.write, Memory.read, h]
    · simp [Memory.write, Memory.read, h]
    · simp [Memory.write, Memory.read, Nat.lt_asymm h, Nat.ne_of_gt h, ih]

theorem read_write_other (m : Memory) {a b : Nat} (v : Byte) (hab : b ≠ a) :
    Memory.read (Memory.write m a v) b = Memory.read m b := by
  induction m with
  | nil => simp [Memory.write, Memory.read, hab]
  | cons c m ih =>
    obtain ⟨x, w⟩ := c
    rcases Nat.lt_trichotomy a x with h | h | h
    · simp [Memory.write, Memory.read, h, hab]
    · subst h; simp [Memory.write, Memory.read, hab]
    · simp [Memory.write, Memory.read, Nat.lt_asymm h, Nat.ne_of_gt h, ih]

/-- Every entry after a write is the one written or an entry there was. -/
theorem mem_write {m : Memory} {a : Nat} {v : Byte} {c : Host.Cell} (h : c ∈ Memory.write m a v) :
    c = (a, v) ∨ c ∈ m := by
  induction m with
  | nil => simpa [Memory.write] using h
  | cons d m ih =>
    obtain ⟨x, w⟩ := d
    simp only [Memory.write] at h
    split at h
    · simpa using h
    · split at h
      · rcases List.mem_cons.mp h with h | h
        · exact .inl h
        · exact .inr (List.mem_cons_of_mem _ h)
      · rcases List.mem_cons.mp h with h | h
        · exact .inr (by simp [h])
        · rcases ih h with h | h
          · exact .inl h
          · exact .inr (List.mem_cons_of_mem _ h)

theorem write_wf {m : Memory} (a : Nat) (v : Byte) (h : Memory.wf m) : Memory.wf (Memory.write m a v) := by
  refine ⟨?_, fun c _ => by simp [Memory.unlisted]⟩
  replace h := h.1
  induction m with
  | nil => simp [Memory.write]
  | cons d m ih =>
    obtain ⟨x, w⟩ := d
    obtain ⟨hx, hm⟩ := List.pairwise_cons.mp h
    simp only [Memory.write]
    split
    · rename_i hax
      exact List.pairwise_cons.mpr ⟨fun c hc => by
        rcases List.mem_cons.mp hc with rfl | hc
        · exact hax
        · exact Nat.lt_trans hax (hx c hc), h⟩
    · split
      · rename_i _ hax
        subst hax
        exact List.pairwise_cons.mpr ⟨hx, hm⟩
      · rename_i h1 h2
        refine List.pairwise_cons.mpr ⟨fun c hc => ?_, ih hm⟩
        rcases mem_write hc with rfl | hc
        · show x < a
          omega
        · exact hx c hc

/-- Reading after an append (R41): the payload at the addresses it was written to, every other address as before. -/
theorem read_append (m : Memory) (a : Nat) (data : List Byte) (b : Nat) :
    Memory.read (Memory.append m a data) b =
      if a ≤ b ∧ b < a + data.length then data[b - a]? else Memory.read m b := by
  induction data generalizing m a with
  | nil => simp only [Memory.append, List.length_nil]; rw [if_neg (by omega)]
  | cons d data ih =>
    rw [Memory.append, ih]
    by_cases hab : b = a
    · subst hab
      rw [if_neg (by omega), if_pos (by simp), read_write_same]
      simp
    · rw [read_write_other _ _ hab]
      by_cases h : a + 1 ≤ b ∧ b < a + 1 + data.length
      · rw [if_pos h, if_pos (by simp only [List.length_cons]; omega),
          show b - a = (b - (a + 1)) + 1 by omega, List.getElem?_cons_succ]
      · rw [if_neg h, if_neg (by simp only [List.length_cons]; omega)]

theorem append_wf {m : Memory} (a : Nat) (data : List Byte) (h : Memory.wf m) :
    Memory.wf (Memory.append m a data) := by
  induction data generalizing m a with
  | nil => exact h
  | cons d data ih => exact ih _ (write_wf _ _ h)

/-- Every entry after an append lies below the end of what was appended, or was there before. -/
theorem mem_append {m : Memory} {a : Nat} {data : List Byte} {c : Host.Cell}
    (h : c ∈ Memory.append m a data) : c.1 < a + data.length ∨ c ∈ m := by
  induction data generalizing m a with
  | nil => exact .inr h
  | cons d data ih =>
    rcases ih h with h | h
    · left; simp only [List.length_cons]; omega
    · rcases mem_write h with rfl | h
      · left; simp
      · exact .inr h

/-- A slice depends only on what its addresses read as. -/
theorem slice_congr {m m' : Memory} {a n : Nat}
    (h : ∀ b, a ≤ b → b < a + n → Memory.read m b = Memory.read m' b) :
    Memory.slice m a n = Memory.slice m' a n := by
  induction n generalizing a with
  | zero => rfl
  | succ n ih =>
    simp only [Memory.slice, h a (Nat.le_refl _) (by omega)]
    rw [ih (fun b h1 h2 => h b (by omega) (by omega))]

/-- A slice is the bytes its addresses read as. -/
theorem slice_eq_some {m : Memory} {a : Nat} {B : List Byte}
    (h : ∀ j, j < B.length → Memory.read m (a + j) = B[j]?) :
    Memory.slice m a B.length = some B := by
  induction B generalizing a with
  | nil => rfl
  | cons b B ih =>
    have h0 := h 0 (by simp)
    simp only [Nat.add_zero, List.getElem?_cons_zero] at h0
    have ht : Memory.slice m (a + 1) B.length = some B := ih fun j hj => by
      have := h (j + 1) (by simp; omega)
      rwa [List.getElem?_cons_succ, ← Nat.add_assoc, Nat.add_right_comm] at this
    simp [Memory.slice, h0, ht]

theorem slice_length {m : Memory} {a n : Nat} {B : List Byte} (h : Memory.slice m a n = some B) : B.length = n := by
  induction n generalizing a B with
  | zero => simp [Memory.slice] at h; simp [← h]
  | succ n ih =>
    simp only [Memory.slice] at h
    split at h
    · cases h
    · obtain ⟨C, hC, rfl⟩ := Option.map_eq_some_iff.mp h
      simp [ih hC]

/-- A slice of two parts. -/
theorem slice_add (m : Memory) (a n l : Nat) :
    Memory.slice m a (n + l) =
      (Memory.slice m a n).bind fun B => (Memory.slice m (a + n) l).map (B ++ ·) := by
  induction n generalizing a with
  | zero => simp [Memory.slice]
  | succ n ih =>
    rw [Nat.add_right_comm]
    simp only [Memory.slice]
    cases Memory.read m a with
    | none => rfl
    | some b =>
      simp only [ih, Nat.add_right_comm a 1 n, Nat.add_assoc a n 1]
      cases Memory.slice m (a + 1) n with
      | none => rfl
      | some B =>
        cases Memory.slice m (a + (n + 1)) l <;> simp

/-- The buffer after an append: what it held, and the payload after it (R41, R165). -/
theorem bufBytes_appendData (data : List Byte) (k : Instance) :
    bufBytes (appendData data k) = (bufBytes k).map (· ++ data) := by
  have hold : Memory.slice (Memory.append k.buf k.bufLen data) 0 k.bufLen = Memory.slice k.buf 0 k.bufLen :=
    slice_congr fun b _ hb => by rw [read_append, if_neg (by omega)]
  have hnew : Memory.slice (Memory.append k.buf k.bufLen data) (0 + k.bufLen) data.length = some data :=
    slice_eq_some fun j hj => by
      rw [read_append, if_pos (by omega)]; congr 1; omega
  simp only [bufBytes, appendData_buf, appendData_bufLen, slice_add, hold, hnew]
  cases Memory.slice k.buf 0 k.bufLen <;> simp

theorem bufBytes_of_empty {k : Instance} (h : k.bufLen = 0) : bufBytes k = some [] := by
  simp [bufBytes, h, Memory.slice]

/-- An empty buffer then holds exactly the payload (R165). -/
theorem bufBytes_appendData_empty {k : Instance} (data : List Byte) (h : k.bufLen = 0) :
    bufBytes (appendData data k) = some data := by
  rw [bufBytes_appendData, bufBytes_of_empty h]; rfl

end Sys2Proof.Machine
end

