-- ==== Sys2Proof/Laws/Ops.lean ====
section
/-! SUPPORT. What each shared operation can do, said once: the beginning of an operation, command transmission,
initialisation, the dispatch cycle, and what `exec` as a whole can do. -/

namespace Sys2Proof.Machine

/-! ### The beginning of an operation (R229) -/

theorem onInst_ready {s : State} {k : Instance} (h : s.Ready k) (f : Instance → Host.Outcome State Fault Refusal) :
    onInst s f = f k := by
  have hb : busy k = false := (busy_eq_false_iff k).mpr h.2
  simp [onInst, h.1, hb]

theorem onInst_busy {s : State} {k : Instance} {r : Record} (h : s.insts[s.cur]? = some k) (hr : k.recOut = some r)
    (f : Instance → Host.Outcome State Fault Refusal) : onInst s f = .refused .reentrant := by
  simp [onInst, h, busy, hr]

theorem onInst_next {s t : State} {f : Instance → Host.Outcome State Fault Refusal} (h : onInst s f = .next t) :
    ∃ k, s.Ready k ∧ f k = .next t := by
  unfold onInst at h
  split at h
  · cases h
  · rename_i k hk
    split at h
    · cases h
    · rename_i hb
      exact ⟨k, ⟨hk, (busy_eq_false_iff k).mp (by simpa using hb)⟩, h⟩

/-- The state an operation leaves is ready exactly where its new instance is. -/
theorem putInst_ready {s : State} {k : Instance} (h : s.insts[s.cur]? = some k) {j : Instance}
    (hj : j.recOut = none) : (putInst s j).Ready j :=
  ⟨putInst_current j h, hj⟩

/-! ### Command transmission (R194) -/

/-- `CMD_TX` on a configured instance: the frame goes out, and the result tells whether the count was nonzero. -/
theorem cmdTxInst_configured {C : List Byte} {a : Answers} {k : Instance} (h : k.cfgValid = true) :
    cmdTxInst C a k = reportResult (writeResult a.written) (transmit k.cfgChannel C k) := by
  by_cases hw : a.written = 0 <;> simp [cmdTxInst, h, commandError, writeResult, resultOf, hw]

/-- `CMD_TX` on an unconfigured instance: nothing goes out, and the result is `FAIL` (R21). -/
theorem cmdTxInst_unconfigured {C : List Byte} {a : Answers} {k : Instance} (h : k.cfgValid = false) :
    cmdTxInst C a k = reportResult .fail k := by
  simp [cmdTxInst, h, commandError, resultOf]

theorem cmdTx_ready {s : State} {k : Instance} (h : s.Ready k) (C : List Byte) :
    cmdTx C s = .next (putInst s (cmdTxInst C s.answers k)) := onInst_ready h _

/-- `CMD_TX` changes an instance's transmit trace and results, and nothing else (R200). -/
theorem cmdTxInst_fields (C : List Byte) (a : Answers) (k : Instance) :
    ∃ r ts, cmdTxInst C a k = { k with results := k.results ++ [r], transmits := k.transmits ++ ts } ∧
      (ts = [] ∨ ts = [(k.cfgChannel, C)]) := by
  rcases Bool.eq_false_or_eq_true k.cfgValid with h | h
  · refine ⟨writeResult a.written, [(k.cfgChannel, C)], ?_, .inr rfl⟩
    rw [cmdTxInst_configured h]; rfl
  · refine ⟨.fail, [], ?_, .inl rfl⟩
    rw [cmdTxInst_unconfigured h, List.append_nil]; rfl

/-! ### Initialisation (R190) -/

@[simp] theorem initWrite_fields (p : Params) (ch : Channel) (mode : Mode) (k : Instance) :
    initWrite p ch mode k =
      { k with transmits := k.transmits ++ if p.initSendsMode then [(ch, modeFrame mode)] else [] } := by
  unfold initWrite
  split <;> simp [transmit]

/-- What a failed INIT leaves (R191). -/
theorem initFailed_fields (p : Params) (ch : Channel) (sink : Bool) (mode : Mode) (a : Answers) (k : Instance) :
    initFailed p ch sink mode a k =
      { k with results := k.results ++ [.fail],
               transmits := k.transmits ++
                 if (sink && a.devCfgOk && p.initSendsMode) = true then [(ch, modeFrame mode)] else [] } := by
  cases sink <;> cases hd : a.devCfgOk <;> cases hs : p.initSendsMode <;> simp [initFailed, reportResult, hd, hs]

/-- What a successful INIT leaves (R190). -/
theorem initDone_fields (p : Params) (ch : Channel) (mode : Mode) (k : Instance) :
    initDone p ch mode k =
      { k with cfgValid := true, cfgChannel := ch, bufLen := 0, results := k.results ++ [.ok],
               transmits := k.transmits ++ if p.initSendsMode then [(ch, modeFrame mode)] else [] } := by
  simp [initDone, reportResult]

/-- INIT fails exactly where one of its tests fails, in whatever order they are made (R191, R226). -/
theorem initError_isSome (p : Params) (sink : Bool) (a : Answers) :
    initError p sink a ≠ none ↔ sink = false ∨ a.devCfgOk = false ∨ initWriteFails p a.written = true := by
  unfold initError
  cases sink <;> cases a.devCfgOk <;> cases initWriteFails p a.written <;> simp

/-- INIT succeeds exactly where every test passes (R190). -/
theorem initError_none {p : Params} {sink : Bool} {a : Answers} :
    initError p sink a = none ↔ sink = true ∧ a.devCfgOk = true ∧ initWriteFails p a.written = false := by
  unfold initError
  cases sink <;> cases a.devCfgOk <;> cases initWriteFails p a.written <;> simp

/-- The channel is free exactly where no configured instance has it (R233). -/
theorem channelTaken_eq_false {s : State} {ch : Channel} :
    channelTaken s ch = false ↔ ∀ k ∈ s.insts, k.cfgValid = true → k.cfgChannel ≠ ch := by
  simp [channelTaken]

/-! ### The dispatch cycle (R161) -/

theorem overCapacity_mono {p : Params} {m n : Nat} (h : m ≤ n) (hn : overCapacity p n = false) :
    overCapacity p m = false := by
  unfold overCapacity at *
  split at hn
  · rfl
  · simp_all; omega

/-- The locator or validator refuses the bytes: the buffer is cleared and the status says which (R166, R167). With a
valid frame its record is offered (R168). -/
theorem dispatchBytes_cases (B : List Byte) (acc : Bool) (k : Instance) :
    (locate B = none ∧ dispatchBytes B acc k = reportStatus .framingError (clearBuf k)) ∨
    (∃ p, locate B = some p ∧ checksumOk (frameAt B p) = false ∧
      dispatchBytes B acc k = reportStatus .integrityError (clearBuf k)) ∨
    (∃ p, locate B = some p ∧ checksumOk (frameAt B p) = true ∧ acc = true ∧
      dispatchBytes B acc k = completeDelivery (decodeRecord (frameAt B p)) k) ∨
    (∃ p, locate B = some p ∧ checksumOk (frameAt B p) = true ∧ acc = false ∧
      dispatchBytes B acc k = { k with recOut := some (decodeRecord (frameAt B p)) }) := by
  unfold dispatchBytes
  cases hl : locate B with
  | none => exact .inl ⟨rfl, rfl⟩
  | some p =>
    right
    cases hc : checksumOk (frameAt B p) with
    | false => exact .inl ⟨p, rfl, hc, by simp [dispatchFrame, hc]⟩
    | true =>
      cases acc with
      | true => exact .inr (.inl ⟨p, rfl, hc, rfl, by simp [dispatchFrame, hc, offer, completeDelivery, clearBuf, reportStatus]⟩)
      | false => exact .inr (.inr ⟨p, rfl, hc, rfl, by simp [dispatchFrame, hc, offer]⟩)

/-- The dispatch of bytes never touches the configuration, the transmit path or the bytes of the buffer (R200). -/
theorem dispatchBytes_frame (B : List Byte) (acc : Bool) (k : Instance) :
    (dispatchBytes B acc k).cfgValid = k.cfgValid ∧ (dispatchBytes B acc k).cfgChannel = k.cfgChannel ∧
    (dispatchBytes B acc k).buf = k.buf ∧ (dispatchBytes B acc k).transmits = k.transmits ∧
    (dispatchBytes B acc k).results = k.results := by
  rcases dispatchBytes_cases B acc k with ⟨-, h⟩ | ⟨p, -, -, h⟩ | ⟨p, -, -, -, h⟩ | ⟨p, -, -, -, h⟩ <;>
    simp [h]

/-- NOTIFY takes the whole cycle on a configured instance, for its channel, with some bytes that fit, from an empty
buffer (R161, R165). -/
theorem receive_dispatch {s : State} {k : Instance} {data : List Byte} (hv : k.cfgValid = true)
    (hd : data ≠ []) (hcap : overCapacity s.params data.length = false) (hlen : k.bufLen = 0) :
    receive k.cfgChannel data s k =
      .next (putInst s (dispatchBytes data s.answers.accepts (appendData data k))) := by
  simp [receive, hv, hd, hcap, bufBytes_appendData_empty data hlen]

/-- The notifications an instance ignores, with the status each shows (R162, R163, R164). -/
inductive Ignores (k : Instance) (ch : Channel) (data : List Byte) : NotifyStatus → Prop
  | unconfigured (hv : k.cfgValid = false) : Ignores k ch data .ignoredUnconfigured
  | channel (hv : k.cfgValid = true) (hc : ch ≠ k.cfgChannel) : Ignores k ch data .ignoredChannel
  | empty (hv : k.cfgValid = true) (hc : ch = k.cfgChannel) (hd : data = []) : Ignores k ch data .ignoredEmpty

theorem ignores_ne_delivered {k : Instance} {ch : Channel} {data : List Byte} {st : NotifyStatus}
    (h : Ignores k ch data st) : st ≠ .delivered := by
  cases h <;> decide

theorem receive_ignored {ch : Channel} {data : List Byte} {st : NotifyStatus} {k : Instance}
    (h : Ignores k ch data st) (s : State) : receive ch data s k = .next (putInst s (reportStatus st k)) := by
  cases h with
  | unconfigured hv => simp [receive, hv]
  | channel hv hc => simp [receive, hv, hc]
  | empty hv hc hd => simp [receive, hv, hc, hd]

theorem receive_read {data B : List Byte} {s : State} {k : Instance} (hv : k.cfgValid = true) (hd : data ≠ [])
    (hcap : overCapacity s.params data.length = false) (hB : bufBytes (appendData data k) = some B) :
    receive k.cfgChannel data s k = .next (putInst s (dispatchBytes B s.answers.accepts (appendData data k))) := by
  simp [receive, hv, hd, hcap, hB]

/-- What NOTIFY can do to the instance it is presented to (R161): ignore the bytes, or dispatch what the buffer holds. -/
theorem receive_next {ch : Channel} {data : List Byte} {s t : State} {k : Instance}
    (h : receive ch data s k = .next t) :
    (∃ st, Ignores k ch data st ∧ t = putInst s (reportStatus st k)) ∨
    (∃ B, k.cfgValid = true ∧ ch = k.cfgChannel ∧ data ≠ [] ∧ overCapacity s.params data.length = false ∧
      bufBytes (appendData data k) = some B ∧
      t = putInst s (dispatchBytes B s.answers.accepts (appendData data k))) := by
  unfold receive at h
  split at h
  · rename_i hv
    injection h with h
    exact .inl ⟨_, .unconfigured hv, h.symm⟩
  · rename_i hv
    have hv : k.cfgValid = true := by simpa using hv
    split at h
    · rename_i hc
      injection h with h
      exact .inl ⟨_, .channel hv hc, h.symm⟩
    · rename_i hc
      have hc : ch = k.cfgChannel := by simpa using hc
      split at h
      · rename_i hd
        injection h with h
        exact .inl ⟨_, .empty hv hc hd, h.symm⟩
      · rename_i hd
        split at h
        · cases h
        · rename_i hcap
          split at h
          · cases h
          · rename_i B hB
            injection h with h
            exact .inr ⟨B, hv, hc, hd, by simpa using hcap, hB, h.symm⟩

/-! ### What an instruction can do -/

/-- An instruction that receives: the channel and bytes it presents to instance `k`. -/
inductive Receives (k : Instance) : Instr → Channel → List Byte → Prop
  | notify (ch : Channel) (data : List Byte) : Receives k (.notify ch data) ch data
  | dataFrame (f : DataFrame) : Receives k (.dataFrame f) k.cfgChannel (frameBytes f)

/-- An instruction that transmits by `CMD_TX`: the frame it hands over (R67, R195 to R198). -/
inductive Transmits : Instr → List Byte → Prop
  | setMode (m : Mode) : Transmits (.setMode m) (modeFrame m)
  | sleep : Transmits .sleep sleepFrame
  | wakeup : Transmits .wakeup wakeupFrame
  | requestRead : Transmits .requestRead requestReadFrame
  | cmdSetPassive : Transmits .cmdSetPassive setPassiveFrame
  | cmdSetActive : Transmits .cmdSetActive setActiveFrame
  | cmdRequestRead : Transmits .cmdRequestRead requestReadFrame
  | cmdSleep : Transmits .cmdSleep sleepFrame
  | cmdWakeup : Transmits .cmdWakeup wakeupFrame

/-- Everything an instruction can make of the instance it runs on, where it has a next state. -/
inductive Change (s : State) (k : Instance) : Instr → Instance → Prop
  | ignored {i ch data} (st : NotifyStatus) (hi : Receives k i ch data) (hst : Ignores k ch data st) :
      Change s k i (reportStatus st k)
  | dispatched {i ch data} (B : List Byte) (hi : Receives k i ch data) (hv : k.cfgValid = true)
      (hc : ch = k.cfgChannel) (hd : data ≠ []) (hcap : overCapacity s.params data.length = false)
      (hB : bufBytes (appendData data k) = some B) :
      Change s k i (dispatchBytes B s.answers.accepts (appendData data k))
  | initFailed (ch sink mode) (hv : k.cfgValid = false) (he : initError s.params sink s.answers ≠ none) :
      Change s k (.init ch sink mode) (initFailed s.params ch sink mode s.answers k)
  | initDone (ch sink mode) (hv : k.cfgValid = false) (he : initError s.params sink s.answers = none)
      (ht : channelTaken s ch = false) :
      Change s k (.init ch sink mode) (initDone s.params ch mode k)
  | command {i} (C : List Byte) (hi : Transmits i C) : Change s k i (cmdTxInst C s.answers k)

theorem transmits_mem {i : Instr} {C : List Byte} (h : Transmits i C) : C ∈ commandFrames := by
  cases h with
  | setMode m => cases m <;> simp [modeFrame, commandFrames]
  | _ => simp [commandFrames]

theorem exec_receives {s : State} {k : Instance} {i : Instr} {ch : Channel} {data : List Byte}
    (h : s.Ready k) (hi : Receives k i ch data) : exec i s = receive ch data s k := by
  cases hi with
  | notify ch data => exact onInst_ready h _
  | dataFrame f => exact onInst_ready h _

theorem exec_transmits {i : Instr} {C : List Byte} (hi : Transmits i C) (s : State) : exec i s = cmdTx C s := by
  cases hi <;> rfl

/-- INIT where the operation can begin (R190). -/
theorem exec_init_ready {s : State} {k : Instance} (h : s.Ready k) (ch : Channel) (sink : Bool) (mode : Mode) :
    exec (.init ch sink mode) s =
      if k.cfgValid then .refused .reinit
      else match initError s.params sink s.answers with
        | some _ => .next (putInst s (initFailed s.params ch sink mode s.answers k))
        | none =>
          if channelTaken s ch then .refused .sharedChannel
          else .next (putInst s (initDone s.params ch mode k)) := onInst_ready h _

/-- The families of instructions: INIT, the receivers and the transmitters. -/
theorem instr_cases (k : Instance) (i : Instr) :
    (∃ ch sink mode, i = .init ch sink mode) ∨ (∃ ch data, Receives k i ch data) ∨ (∃ C, Transmits i C) := by
  cases i with
  | init ch sink mode => exact .inl ⟨_, _, _, rfl⟩
  | notify ch data => exact .inr (.inl ⟨_, _, .notify ch data⟩)
  | dataFrame f => exact .inr (.inl ⟨_, _, .dataFrame f⟩)
  | setMode m => exact .inr (.inr ⟨_, .setMode m⟩)
  | sleep => exact .inr (.inr ⟨_, .sleep⟩)
  | wakeup => exact .inr (.inr ⟨_, .wakeup⟩)
  | requestRead => exact .inr (.inr ⟨_, .requestRead⟩)
  | cmdSetPassive => exact .inr (.inr ⟨_, .cmdSetPassive⟩)
  | cmdSetActive => exact .inr (.inr ⟨_, .cmdSetActive⟩)
  | cmdRequestRead => exact .inr (.inr ⟨_, .cmdRequestRead⟩)
  | cmdSleep => exact .inr (.inr ⟨_, .cmdSleep⟩)
  | cmdWakeup => exact .inr (.inr ⟨_, .cmdWakeup⟩)

/-- No instruction begins while another is in progress on its instance (R229). -/
theorem exec_busy {s : State} {k : Instance} {r : Record} (h : s.insts[s.cur]? = some k) (hr : k.recOut = some r)
    (i : Instr) : exec i s = .refused .reentrant := by
  cases i <;> exact onInst_busy h hr _

/-- Every instruction runs on the instance it is presented to. -/
theorem exec_next_ready {i : Instr} {s t : State} (h : exec i s = .next t) : ∃ k, s.Ready k := by
  have aux : ∀ {f}, onInst s f = .next t → ∃ k, s.Ready k := fun h =>
    let ⟨k, hk, _⟩ := onInst_next h
    ⟨k, hk⟩
  cases i <;> exact aux h

/-- What an instruction does where it has a next state: the instance it is presented to changes as `Change` says, and
nothing else does. -/
theorem exec_next {i : Instr} {s t : State} (h : exec i s = .next t) :
    ∃ k k', s.Ready k ∧ t = putInst s k' ∧ Change s k i k' := by
  obtain ⟨k, hk⟩ := exec_next_ready h
  refine ⟨k, ?_⟩
  rcases instr_cases k i with ⟨ch, sink, mode, rfl⟩ | ⟨ch, data, hi⟩ | ⟨C, hi⟩
  · rw [exec_init_ready hk] at h
    split at h
    · cases h
    · rename_i hv
      have hv : k.cfgValid = false := by simpa using hv
      split at h
      · rename_i e he
        injection h with h
        exact ⟨_, hk, h.symm, .initFailed ch sink mode hv (by simp [he])⟩
      · rename_i he
        split at h
        · cases h
        · rename_i ht
          injection h with h
          exact ⟨_, hk, h.symm, .initDone ch sink mode hv he (by simpa using ht)⟩
  · rw [exec_receives hk hi] at h
    rcases receive_next h with ⟨st, hst, ht⟩ | ⟨B, hv, hc, hd, hcap, hB, ht⟩
    · exact ⟨_, hk, ht, .ignored st hi hst⟩
    · exact ⟨_, hk, ht, .dispatched B hi hv hc hd hcap hB⟩
  · rw [exec_transmits hi, cmdTx_ready hk] at h
    injection h with h
    exact ⟨_, hk, h.symm, .command C hi⟩

/-- And each such change happens: where an operation can begin, `Change` is exactly what `exec` does. -/
theorem exec_of_change {s : State} {k k' : Instance} {i : Instr} (h : s.Ready k) (hch : Change s k i k') :
    exec i s = .next (putInst s k') := by
  cases hch with
  | ignored st hi hst => rw [exec_receives h hi, receive_ignored hst]
  | dispatched B hi hv hc hd hcap hB => rw [exec_receives h hi, hc, receive_read hv hd hcap hB]
  | initFailed ch sink mode hv he =>
    obtain ⟨e, he⟩ := Option.ne_none_iff_exists'.mp he
    rw [exec_init_ready h]; simp [hv, he]
  | initDone ch sink mode hv he ht => rw [exec_init_ready h]; simp [hv, he, ht]
  | command C hi => rw [exec_transmits hi, cmdTx_ready h]

/-- The instance an operation ran on, named before and after it. -/
theorem exec_next_current {i : Instr} {s t : State} {k k' : Instance} (h : s.Ready k) (hx : exec i s = .next t)
    (hk' : t.insts[t.cur]? = some k') : t = putInst s k' ∧ Change s k i k' := by
  obtain ⟨k₀, k₁, h₀, rfl, hch⟩ := exec_next hx
  obtain rfl : k = k₀ := Option.some.inj (h.1.symm.trans h₀.1)
  obtain rfl : k₁ = k' := Option.some.inj ((putInst_current k₁ h.1).symm.trans hk')
  exact ⟨rfl, hch⟩

/-- An operation changes an instance's configuration only where it is an INIT that succeeds (R21). -/
theorem change_config {s : State} {k k' : Instance} {i : Instr} (h : Change s k i k') :
    (k'.cfgValid = k.cfgValid ∧ k'.cfgChannel = k.cfgChannel) ∨
    ∃ ch mode, i = .init ch true mode ∧ k.cfgValid = false ∧ k' = initDone s.params ch mode k ∧
      channelTaken s ch = false := by
  cases h with
  | ignored => exact .inl ⟨rfl, rfl⟩
  | dispatched B =>
    obtain ⟨h1, h2, -⟩ := dispatchBytes_frame B s.answers.accepts (appendData _ k)
    exact .inl ⟨h1, h2⟩
  | initFailed => rw [initFailed_fields]; exact .inl ⟨rfl, rfl⟩
  | initDone ch sink mode hv he ht =>
    obtain ⟨rfl, -, -⟩ := initError_none.mp he
    exact .inr ⟨ch, mode, rfl, hv, rfl, ht⟩
  | command C hi =>
    obtain ⟨r, ts, e, -⟩ := cmdTxInst_fields C s.answers k
    rw [e]; exact .inl ⟨rfl, rfl⟩

/-! ### Refusals (R238) -/

/-- Beginning an operation is refused as REENTRANT only (R229). -/
theorem onInst_refused {s : State} {f : Instance → Host.Outcome State Fault Refusal} {r : Refusal}
    (h : onInst s f = .refused r) : r = .reentrant ∨ ∃ k, f k = .refused r := by
  unfold onInst at h
  split at h
  · cases h
  · split at h
    · injection h with h; exact .inl h.symm
    · exact .inr ⟨_, h⟩

/-- A dispatch cycle is refused as BUFFER_CAPACITY only (R52). -/
theorem receive_refused {ch : Channel} {data : List Byte} {s : State} {k : Instance} {r : Refusal}
    (h : receive ch data s k = .refused r) : r = .bufferCapacity := by
  unfold receive at h
  repeat' split at h
  all_goals first | (cases h; done) | (injection h with h; exact h.symm)

/-- The reasons an instruction is refused (R238). -/
theorem exec_refused {i : Instr} {s : State} {r : Refusal} (h : exec i s = .refused r) :
    r = .bufferCapacity ∨ r = .reinit ∨ r = .reentrant ∨ r = .sharedChannel := by
  have htx : ∀ C, cmdTx C s = .refused r → r = .reentrant := fun C h => by
    rcases onInst_refused h with h | ⟨k, h⟩
    · exact h
    · cases h
  have hrc : ∀ (g : Instance → Channel) (data : List Byte), onInst s (fun k => receive (g k) data s k) = .refused r →
      r = .bufferCapacity ∨ r = .reentrant := fun g data h => by
    rcases onInst_refused h with h | ⟨k, h⟩
    · exact .inr h
    · exact .inl (receive_refused h)
  cases i with
  | init ch sink mode =>
    rcases onInst_refused h with h | ⟨k, h⟩
    · exact .inr (.inr (.inl h))
    · repeat' split at h
      all_goals first | (cases h; done) | (injection h with h; subst h; simp)
  | notify ch data => rcases hrc (fun _ => ch) data h with h | h <;> simp [h]
  | dataFrame f => rcases hrc (fun k => k.cfgChannel) (frameBytes f) h with h | h <;> simp [h]
  | _ => exact .inr (.inr (.inl (htx _ h)))

/-! ### Fetch and the host's events -/

/-- What is left of a presentation, as a case on the bytes that follow. -/
theorem remaining_eq (n : Nat) (rest : List Byte) (a : Answers) (es : List Event) :
    remaining n rest a es = if rest = [] then es else .present n rest a :: es := by
  cases rest <;> rfl

/-- A presented operation that decodes is run (R69, R72). -/
theorem step_present {s : State} {n : Nat} {bs rest : List Byte} {a : Answers} {es : List Event}
    {i : Instr} (hm : s.refusalMark = none) (hp : s.pending = .present n bs a :: es)
    (hd : decode s.params.chW .htx bs = .ok (i, rest)) :
    step s = exec i (fetched n a (remaining n rest a es) s) := by
  simp [step, hm, hp, hd]

/-- A data frame that arrives is run (log 2). -/
theorem step_arrive {s : State} {n : Nat} {f : DataFrame} {a : Answers} {es : List Event} (hm : s.refusalMark = none)
    (hp : s.pending = .arrive n f a :: es) : step s = exec (.dataFrame f) (fetched n a es s) := by
  simp [step, hm, hp]

/-- A command frame named for hand-over is run (log 1). -/
theorem step_emit {s : State} {n : Nat} {c : Command} {a : Answers} {es : List Event} (hm : s.refusalMark = none)
    (hp : s.pending = .emit n c a :: es) : step s = exec c.instr (fetched n a es s) := by
  simp [step, hm, hp]

theorem command_instr_wf (c : Command) (chW : Nat) : c.instr.wf chW = true := by cases c <;> rfl

theorem command_transmits (c : Command) : ∃ C, Transmits c.instr C := by
  cases c
  · exact ⟨_, .cmdSetPassive⟩
  · exact ⟨_, .cmdSetActive⟩
  · exact ⟨_, .cmdRequestRead⟩
  · exact ⟨_, .cmdSleep⟩
  · exact ⟨_, .cmdWakeup⟩

/-- What a step can do where it has a next state. -/
theorem step_next {s t : State} (h : step s = .next t) :
    s.refusalMark = none ∧
    ((s.pending = [] ∧ t = s) ∨
     (∃ n es, s.pending = .accept n :: es ∧ acceptEvent n { s with pending := es } = .next t) ∨
     (∃ n es, s.pending = .reset n :: es ∧ resetEvent n { s with pending := es } = .next t) ∨
     (∃ n bs a es i rest, s.pending = .present n bs a :: es ∧
        decode s.params.chW .htx bs = .ok (i, rest) ∧
        exec i (fetched n a (remaining n rest a es) s) = .next t) ∨
     (∃ n c a es, s.pending = .emit n c a :: es ∧ exec c.instr (fetched n a es s) = .next t) ∨
     (∃ n f a es, s.pending = .arrive n f a :: es ∧ exec (.dataFrame f) (fetched n a es s) = .next t)) := by
  unfold step at h
  split at h
  · cases h
  · rename_i hm
    refine ⟨hm, ?_⟩
    split at h
    · rename_i hp
      injection h with h
      exact .inl ⟨hp, h.symm⟩
    · rename_i n es hp
      exact .inr (.inl ⟨n, es, hp, h⟩)
    · rename_i n es hp
      exact .inr (.inr (.inl ⟨n, es, hp, h⟩))
    · rename_i n c a es hp
      exact .inr (.inr (.inr (.inr (.inl ⟨n, c, a, es, hp, h⟩))))
    · rename_i n f a es hp
      exact .inr (.inr (.inr (.inr (.inr ⟨n, f, a, es, hp, h⟩))))
    · rename_i n bs a es hp
      split at h
      · cases h
      · rename_i i rest hd
        exact .inr (.inr (.inr (.inl ⟨n, bs, a, es, i, rest, hp, hd, h⟩)))

/-- What an acceptance can do: nothing where nothing is offered, or complete the waiting NOTIFY (R172). -/
theorem acceptEvent_next {n : Nat} {s t : State} (h : acceptEvent n s = .next t) :
    ∃ k, s.insts[n]? = some k ∧
      ((k.recOut = none ∧ t = s) ∨
       (∃ r, k.recOut = some r ∧ t = { s with insts := s.insts.set n (completeDelivery r k) })) := by
  unfold acceptEvent at h
  split at h
  · cases h
  · rename_i k hk
    refine ⟨k, hk, ?_⟩
    split at h
    · rename_i hr
      injection h with h
      exact .inl ⟨hr, h.symm⟩
    · rename_i r hr
      injection h with h
      exact .inr ⟨r, hr, h.symm⟩

/-- What a reset can do: put an idle instance in its reset state (R250, R251). -/
theorem resetEvent_next {n : Nat} {s t : State} (h : resetEvent n s = .next t) :
    ∃ k, s.insts[n]? = some k ∧ k.recOut = none ∧
      t = { s with insts := s.insts.set n Instance.reset } := by
  unfold resetEvent at h
  split at h
  · cases h
  · rename_i k hk
    split at h
    · cases h
    · rename_i hb
      injection h with h
      exact ⟨k, hk, (busy_eq_false_iff k).mp (by simpa using hb), h.symm⟩

end Sys2Proof.Machine
end

