-- ==== Sys2Proof/Laws/Invariant.lean ====
section
/-! SUPPORT. What the shared operations do to the invariant of an instance and to the channels of a system. -/

namespace Sys2Proof.Machine

theorem Memory.reset_wf : Memory.wf Instance.reset.buf := ⟨List.Pairwise.nil, by simp [Instance.reset]⟩

theorem overCapacity_zero (p : Params) : overCapacity p 0 = false := by
  unfold overCapacity; split <;> simp

/-- A reset instance meets its invariant, whatever the parameters. -/
theorem reset_instance_inv (p : Params) : Instance.Inv p Instance.reset :=
  { bufWf := Memory.reset_wf, bufWithin := by simp [Memory.within, Instance.reset], emptyAtBoundary := fun _ => rfl,
    lenWithin := overCapacity_zero p, written := ⟨[], rfl⟩, channelFits := by simp [Machine.channelFits, Instance.reset],
    offerConfigured := by simp [Instance.reset], framesEmitted := by simp [Instance.reset], oneEach := rfl }

/-- Showing a status other than `DELIVERED` keeps the invariant. -/
theorem reportStatus_inv {p : Params} {k : Instance} {st : NotifyStatus} (hst : st ≠ .delivered)
    (h : Instance.Inv p k) : Instance.Inv p (reportStatus st k) := by
  have hc : List.count NotifyStatus.delivered [st] = 0 := by simp [List.count_eq_zero, Ne.symm hst]
  exact { bufWf := h.bufWf, bufWithin := h.bufWithin, emptyAtBoundary := h.emptyAtBoundary, lenWithin := h.lenWithin,
          written := h.written, channelFits := h.channelFits, offerConfigured := h.offerConfigured,
          framesEmitted := h.framesEmitted, oneEach := by simp [h.oneEach, hc] }

/-- The completion of a delivery keeps the invariant (R168). -/
theorem completeDelivery_inv {p : Params} {k : Instance} (r : Record) (h : Instance.Inv p k) :
    Instance.Inv p (completeDelivery r k) :=
  { bufWf := h.bufWf, bufWithin := h.bufWithin, emptyAtBoundary := fun _ => rfl, lenWithin := overCapacity_zero p,
    written := ⟨[], bufBytes_of_empty rfl⟩, channelFits := h.channelFits, offerConfigured := by simp,
    framesEmitted := h.framesEmitted, oneEach := by simp [h.oneEach] }

/-- What an operation adds to the transmit trace: nothing, or one of the five frames (R68). -/
theorem change_transmits {s : State} {k k' : Instance} {i : Instr} (h : Change s k i k') :
    ∃ ts, k'.transmits = k.transmits ++ ts ∧ (ts = [] ∨ ∃ ch C, ts = [(ch, C)] ∧ C ∈ commandFrames) := by
  have hmode : ∀ mode, modeFrame mode ∈ commandFrames := fun mode => transmits_mem (.setMode mode)
  cases h with
  | ignored => exact ⟨[], by simp, .inl rfl⟩
  | @dispatched _ _ data B =>
    obtain ⟨-, -, -, h4, -⟩ := dispatchBytes_frame B s.answers.accepts (appendData data k)
    exact ⟨[], by simp [h4], .inl rfl⟩
  | initFailed ch sink mode =>
    rw [initFailed_fields]
    refine ⟨_, rfl, ?_⟩
    split
    · exact .inr ⟨ch, _, rfl, hmode mode⟩
    · exact .inl rfl
  | initDone ch sink mode =>
    rw [initDone_fields]
    refine ⟨_, rfl, ?_⟩
    split
    · exact .inr ⟨ch, _, rfl, hmode mode⟩
    · exact .inl rfl
  | command C hi =>
    obtain ⟨r, ts, e, hts⟩ := cmdTxInst_fields C s.answers k
    rw [e]
    exact ⟨ts, rfl, hts.imp_right fun h => ⟨_, _, h, transmits_mem hi⟩⟩

/-- An operation keeps the invariant of the instance it runs on. -/
theorem change_inv {s : State} {k k' : Instance} {i : Instr} (h : Instance.Inv s.params k) (hr : k.recOut = none)
    (hw : i.wf s.params.chW = true) (hch : Change s k i k') : Instance.Inv s.params k' := by
  have hframes : ∀ t ∈ k'.transmits, t.2 ∈ commandFrames := by
    obtain ⟨ts, e, hts⟩ := change_transmits hch
    rw [e]
    intro t ht
    rcases List.mem_append.mp ht with ht | ht
    · exact h.framesEmitted t ht
    · rcases hts with rfl | ⟨ch, C, rfl, hC⟩
      · cases ht
      · rw [List.mem_singleton.mp ht]; exact hC
  cases hch with
  | ignored st hi hst => exact reportStatus_inv (ignores_ne_delivered hst) h
  | @dispatched _ _ data B hi hv hc hd hcap hB =>
    have he := h.emptyAtBoundary hr
    have hwf : Memory.wf (appendData data k).buf := append_wf _ _ h.bufWf
    have hin : Memory.within s.params (appendData data k).buf := by
      intro c hc
      rcases mem_append hc with hc | hc
      · exact overCapacity_mono (by omega) hcap
      · exact h.bufWithin c hc
    have hlen : overCapacity s.params (appendData data k).bufLen = false := by simpa [he] using hcap
    have h0 := overCapacity_zero s.params
    rcases dispatchBytes_cases B s.answers.accepts (appendData data k) with
      ⟨-, e⟩ | ⟨_, -, -, e⟩ | ⟨_, -, -, -, e⟩ | ⟨_, -, -, -, e⟩ <;> rw [e] at hframes ⊢
    · exact ⟨hwf, hin, fun _ => rfl, h0, ⟨[], bufBytes_of_empty rfl⟩, h.channelFits, h.offerConfigured, hframes,
        by simp [h.oneEach]⟩
    · exact ⟨hwf, hin, fun _ => rfl, h0, ⟨[], bufBytes_of_empty rfl⟩, h.channelFits, h.offerConfigured, hframes,
        by simp [h.oneEach]⟩
    · exact ⟨hwf, hin, fun _ => rfl, h0, ⟨[], bufBytes_of_empty rfl⟩, h.channelFits, by simp, hframes,
        by simp [h.oneEach]⟩
    · exact ⟨hwf, hin, by simp, hlen, ⟨B, hB⟩, h.channelFits, fun _ => hv, hframes, h.oneEach⟩
  | initFailed ch sink mode =>
    rw [initFailed_fields] at hframes ⊢
    exact ⟨h.bufWf, h.bufWithin, h.emptyAtBoundary, h.lenWithin, h.written, h.channelFits, h.offerConfigured, hframes,
      h.oneEach⟩
  | initDone ch sink mode =>
    rw [initDone_fields] at hframes ⊢
    exact ⟨h.bufWf, h.bufWithin, fun _ => rfl, overCapacity_zero _, ⟨[], bufBytes_of_empty rfl⟩, hw, fun _ => rfl,
      hframes, h.oneEach⟩
  | command C hi =>
    obtain ⟨r, ts, e, -⟩ := cmdTxInst_fields C s.answers k
    rw [e] at hframes ⊢
    exact ⟨h.bufWf, h.bufWithin, h.emptyAtBoundary, h.lenWithin, h.written, h.channelFits, h.offerConfigured, hframes,
      h.oneEach⟩

/-! ### Channels (R233) -/

/-- Two configured instances at different places have different channels. -/
theorem distinctChannels_get {ks : List Instance} (h : distinctChannels ks) {m n : Nat} (hmn : m ≠ n) {j k : Instance}
    (hj : ks[m]? = some j) (hk : ks[n]? = some k) (hv : k.cfgValid = true) (hjv : j.cfgValid = true) :
    k.cfgChannel ≠ j.cfgChannel := by
  unfold distinctChannels at h
  rw [List.pairwise_iff_getElem] at h
  obtain ⟨h1, rfl⟩ := List.getElem?_eq_some_iff.mp hj
  obtain ⟨h2, rfl⟩ := List.getElem?_eq_some_iff.mp hk
  rcases Nat.lt_or_gt_of_ne hmn with h3 | h3
  · exact Ne.symm (h m n h1 h2 h3 hjv hv)
  · exact h n m h2 h1 h3 hv hjv

/-- A new value of one instance keeps the channels distinct where its channel is no other configured instance's. -/
theorem distinctChannels_set {ks : List Instance} {n : Nat} {k' : Instance} (h : distinctChannels ks)
    (hnew : ∀ m j, m ≠ n → ks[m]? = some j → k'.cfgValid = true → j.cfgValid = true → k'.cfgChannel ≠ j.cfgChannel) :
    distinctChannels (ks.set n k') := by
  unfold distinctChannels at *
  rw [List.pairwise_iff_getElem] at h ⊢
  intro a b ha hb hab
  simp only [List.length_set] at ha hb
  simp only [List.getElem_set]
  split
  · rw [if_neg (by omega)]
    intro h1 h2
    exact hnew b ks[b] (by omega) (by simp [hb]) h1 h2
  · split
    · intro h1 h2
      exact Ne.symm (hnew a ks[a] (by omega) (by simp [ha]) h2 h1)
    · exact h a b ha hb hab

/-- A system keeps its invariant when one instance takes a value that keeps its own, and that value is unconfigured, keeps
its channel, or has a free one. -/
theorem inv_set {s t : State} (hs : s.Inv) {n : Nat} {k k' : Instance} (hk : s.insts[n]? = some k)
    (hk' : Instance.Inv s.params k')
    (hcfg : (k'.cfgValid = true → k.cfgValid = true ∧ k'.cfgChannel = k.cfgChannel) ∨
      (∀ j ∈ s.insts, j.cfgValid = true → j.cfgChannel ≠ k'.cfgChannel))
    (ht : t.params = s.params) (hti : t.insts = s.insts.set n k') : t.Inv := by
  refine ⟨by rw [ht]; exact hs.params, by rw [hti]; simp [hs.someInst], fun j hj => ?_, ?_⟩
  · rw [hti] at hj; rw [ht]
    rcases List.mem_or_eq_of_mem_set hj with hj | rfl
    · exact hs.each j hj
    · exact hk'
  · rw [hti]
    refine distinctChannels_set hs.distinct fun m j hmn hj hv hjv => ?_
    rcases hcfg with hcfg | hcfg
    · obtain ⟨h1, h2⟩ := hcfg hv
      rw [h2]
      exact distinctChannels_get hs.distinct hmn hj hk h1 hjv
    · exact Ne.symm (hcfg j (List.mem_of_getElem? hj) hjv)

end Sys2Proof.Machine
end

