-- ==== Sys2Proof/Laws/Outside.lean ====
section
/-! SUPPORT. What the outside cannot tell apart: every shared operation takes instances that differ only in unread state to
instances that again differ only so (10_state.md R20, R33, R34). -/

namespace Sys2Proof.Machine

theorem sameOutside_refl (k : Instance) : Instance.SameOutside k k := ⟨rfl, fun _ => rfl, rfl, rfl, rfl, rfl⟩

theorem observables_eq {k j : Instance} (h : k.observables = j.observables) :
    k.deliveries = j.deliveries ∧ k.transmits = j.transmits ∧ k.results = j.results ∧ k.statuses = j.statuses := by
  simpa [Instance.observables] using h

theorem sameOutside_reportStatus {k j : Instance} (h : Instance.SameOutside k j) (st : NotifyStatus) :
    Instance.SameOutside (reportStatus st k) (reportStatus st j) := by
  obtain ⟨o1, o2, o3, o4⟩ := observables_eq h.observables
  exact ⟨h.cfgValid, h.cfgChannel, h.bufLen, h.bufBytes, h.recOut, by simp [Instance.observables, o1, o2, o3, o4]⟩

theorem sameOutside_clearBuf {k j : Instance} (h : Instance.SameOutside k j) :
    Instance.SameOutside (clearBuf k) (clearBuf j) :=
  ⟨h.cfgValid, h.cfgChannel, rfl, by rw [bufBytes_of_empty rfl, bufBytes_of_empty rfl], h.recOut, h.observables⟩

theorem sameOutside_appendData {k j : Instance} (h : Instance.SameOutside k j) (data : List Byte) :
    Instance.SameOutside (appendData data k) (appendData data j) :=
  ⟨h.cfgValid, h.cfgChannel, by simp [h.bufLen], by rw [bufBytes_appendData, bufBytes_appendData, h.bufBytes],
    h.recOut, h.observables⟩

theorem sameOutside_recOut {k j : Instance} (h : Instance.SameOutside k j) (r : Option Record) :
    Instance.SameOutside { k with recOut := r } { j with recOut := r } :=
  ⟨h.cfgValid, h.cfgChannel, h.bufLen, h.bufBytes, rfl, h.observables⟩

theorem sameOutside_completeDelivery {k j : Instance} (h : Instance.SameOutside k j) (r : Record) :
    Instance.SameOutside (completeDelivery r k) (completeDelivery r j) := by
  obtain ⟨o1, o2, o3, o4⟩ := observables_eq h.observables
  exact ⟨h.cfgValid, h.cfgChannel, rfl, by rw [bufBytes_of_empty rfl, bufBytes_of_empty rfl], rfl,
    by simp [Instance.observables, o1, o2, o3, o4]⟩

theorem sameOutside_dispatchBytes {k j : Instance} (h : Instance.SameOutside k j) (B : List Byte) (acc : Bool) :
    Instance.SameOutside (dispatchBytes B acc k) (dispatchBytes B acc j) := by
  simp only [dispatchBytes]
  split
  · exact sameOutside_reportStatus (sameOutside_clearBuf h) _
  · simp only [dispatchFrame, offer]
    split
    · split
      · exact sameOutside_completeDelivery (sameOutside_recOut h _) _
      · exact sameOutside_recOut h _
    · exact sameOutside_reportStatus (sameOutside_clearBuf h) _

theorem sameOutside_cmdTxInst {k j : Instance} (h : Instance.SameOutside k j) (C : List Byte) (a : Answers) :
    Instance.SameOutside (cmdTxInst C a k) (cmdTxInst C a j) := by
  obtain ⟨o1, o2, o3, o4⟩ := observables_eq h.observables
  cases hv : k.cfgValid with
  | false =>
    rw [cmdTxInst_unconfigured hv, cmdTxInst_unconfigured (h.cfgValid ▸ hv)]
    exact ⟨h.cfgValid, h.cfgChannel, h.bufLen, h.bufBytes, h.recOut, by simp [Instance.observables, o1, o2, o3, o4]⟩
  | true =>
    rw [cmdTxInst_configured hv, cmdTxInst_configured (h.cfgValid ▸ hv), h.cfgChannel hv]
    exact ⟨h.cfgValid, h.cfgChannel, h.bufLen, h.bufBytes, h.recOut, by simp [Instance.observables, o1, o2, o3, o4]⟩

/-! ### Systems -/

theorem forall₂_set {R : Instance → Instance → Prop} {ks js : List Instance} (h : List.Forall₂ R ks js)
    {k j : Instance} (hkj : R k j) (n : Nat) : List.Forall₂ R (ks.set n k) (js.set n j) := by
  induction h generalizing n with
  | nil => simp
  | cons hab hr ih =>
    cases n with
    | zero => exact .cons hkj hr
    | succ n => exact .cons hab (ih n)

theorem forall₂_get {R : Instance → Instance → Prop} {ks js : List Instance} (h : List.Forall₂ R ks js) (n : Nat) :
    (ks[n]? = none ∧ js[n]? = none) ∨ ∃ k j, ks[n]? = some k ∧ js[n]? = some j ∧ R k j := by
  induction h generalizing n with
  | nil => simp
  | cons hab hr ih =>
    cases n with
    | zero => exact .inr ⟨_, _, rfl, rfl, hab⟩
    | succ n => simpa using ih n

theorem sameOutside_putInst {s t : State} (h : State.SameOutside s t) {k j : Instance} (hkj : Instance.SameOutside k j) :
    State.SameOutside (putInst s k) (putInst t j) :=
  ⟨h.params, h.pending, h.cur, h.answers, h.refusalMark,
    by simp only [putInst_insts, ← h.cur]; exact forall₂_set h.insts hkj _⟩

/-- Beginning an operation on systems the outside cannot tell apart. -/
theorem outcomesMatch_onInst {s t : State} (h : State.SameOutside s t)
    {f g : Instance → Host.Outcome State Fault Refusal}
    (hfg : ∀ k j, Instance.SameOutside k j → outcomesMatch (f k) (g j)) : outcomesMatch (onInst s f) (onInst t g) := by
  unfold onInst
  rcases forall₂_get h.insts s.cur with ⟨h1, h2⟩ | ⟨k, j, h1, h2, hkj⟩
  · rw [h1, ← h.cur, h2]; rfl
  · rw [h1, ← h.cur, h2]
    simp only [busy, ← hkj.recOut]
    by_cases hb : k.recOut.isSome = true
    · simp only [hb, if_true]; rfl
    · simp only [hb]; exact hfg k j hkj

/-- Whether a channel is taken depends only on configured instances (R233). -/
theorem channelTaken_sameOutside {s t : State} (h : State.SameOutside s t) (ch : Channel) :
    channelTaken s ch = channelTaken t ch := by
  have hi := h.insts
  unfold channelTaken
  revert hi
  generalize s.insts = ks
  generalize t.insts = js
  intro hi
  induction hi with
  | nil => rfl
  | @cons x y _ _ hab hr ih =>
    simp only [List.any_cons, ih]
    congr 1
    rw [← hab.cfgValid]
    cases hv : x.cfgValid with
    | false => simp
    | true => rw [hab.cfgChannel hv]

end Sys2Proof.Machine
end

