-- ==== Sys2Proof/Laws/PerInstr.lean ====
section
/-! SUPPORT. A statement about every instruction as syntax, one lemma per constructor: its encoding has the length the spec
gives it (30_encoding.md R60, R66, R72). -/

namespace Sys2Proof.Laws.EncodedSize

open Sys2Proof Sys2Proof.Machine

/-- The encoding of an instruction has its size. -/
def Statement (i : Instr) : Prop := (encode i).length = i.size

theorem init (ch : Channel) (sink : Bool) (mode : Mode) : Statement (.init ch sink mode) := rfl

theorem notify (ch : Channel) (data : List Byte) : Statement (.notify ch data) := by
  simp [Statement, encode, Instr.size]; omega

theorem setMode (mode : Mode) : Statement (.setMode mode) := rfl

theorem sleep : Statement .sleep := rfl

theorem wakeup : Statement .wakeup := rfl

theorem requestRead : Statement .requestRead := rfl

theorem cmdSetPassive : Statement .cmdSetPassive := rfl

theorem cmdSetActive : Statement .cmdSetActive := rfl

theorem cmdRequestRead : Statement .cmdRequestRead := rfl

theorem cmdSleep : Statement .cmdSleep := rfl

theorem cmdWakeup : Statement .cmdWakeup := rfl

theorem dataFrame (f : DataFrame) : Statement (.dataFrame f) := frameBytes_length f

end Sys2Proof.Laws.EncodedSize
end

