-- ==== Sys2Proof/Tests/Slice0.lean ====
section
/-! SUPPORT. The model's own tests: expected results are the vectors of spec/95_test_vectors.md (named V-… or S… there) or
are written out from the rules named; and one witness for the hypotheses of each statement. -/

namespace Sys2Proof.Tests

open Sys2Proof Sys2Proof.Machine Sys2Proof.Statements

/-! ### Small data -/

/-- the frame `F1` of 95_test_vectors.md §0 -/
def f1 : List Byte :=
  [0x42#8, 0x4D#8, 0x00#8, 0x1C#8, 0x00#8, 0x05#8, 0x00#8, 0x0F#8, 0x00#8, 0x11#8, 0x00#8, 0x05#8, 0x00#8, 0x0F#8,
   0x00#8, 0x11#8, 0x03#8, 0x84#8, 0x01#8, 0x05#8, 0x00#8, 0x2A#8, 0x00#8, 0x04#8, 0x00#8, 0x02#8, 0x00#8, 0x01#8,
   0x97#8, 0x00#8, 0x02#8, 0x4A#8]

/-- the record `R1` of §0 -/
def r1 : Record :=
  ⟨5#16, 15#16, 17#16, 5#16, 15#16, 17#16, 900#16, 261#16, 42#16, 4#16, 2#16, 1#16⟩

/-- `F1` with its checksum field off by one, as `FB` is `FA` (§0) -/
def f1Bad : List Byte := f1.set 31 0x4B#8

/-- the draws {dev_cfg_ok=1, written=w}, consumer accepting at once or not -/
def draws (w : Fin 8) (acc : Bool := true) : Answers := { devCfgOk := true, written := w, accepts := acc }

/-- an instance configured for a channel -/
def configured (ch : Channel) : Instance := { Instance.reset with cfgValid := true, cfgChannel := ch }

/-- a system with the parameters of §2.5, `P_CH_W = 2`, and the given capacity -/
def sys (ks : List Instance) (a : Answers) (cap : Option Nat := none) (es : List Event := []) : State :=
  { params := { bufCap := cap, chW := 2, initSendsMode := true, initChecksModeWrite := true },
    insts := ks, pending := es, cur := 0, answers := a, refusalMark := none }

/-- one configured instance, as §2.4 starts from -/
def one (a : Answers) : State := sys [configured 0#8] a

/-- the current instance after an instruction -/
def after (i : Instr) (s : State) : Option Instance :=
  match exec i s with
  | .next t => t.insts[t.cur]?
  | _ => none

/-- the refusal an instruction meets -/
def refusal (i : Instr) (s : State) : Option Refusal :=
  match exec i s with
  | .refused r => some r
  | _ => none

/-- a step answers a next state -/
def goesOn (s : State) : Bool :=
  match step s with
  | .next _ => true
  | _ => false

/-! ### WellFormed: an ill-formed term for each check -/

theorem test_wf_init_channel : (Instr.init 4#8 true .active).wf 2 = false := by decide
theorem test_wf_notify_channel : (Instr.notify 4#8 []).wf 2 = false := by decide
theorem test_wf_notify_length : (Instr.notify 0#8 (List.replicate 65536 0#8)).wf 2 = false := by
  rw [Instr.wf, List.length_replicate]; decide

/-! ### Decoding: words written out from R60, R67, R70 -/

theorem test_decode_V_E1 : decode 2 .htx [0x18#8, 0x01#8] = .ok (.init 1#8 true .active, []) := rfl
theorem test_decode_V_E3 : decode 2 .htx [0x08#8, 0x00#8] = .ok (.init 0#8 false .active, []) := rfl
theorem test_decode_V_E5 : decode 2 .htx ([0x01#8, 0x01#8, 0x00#8, 0x20#8] ++ f1) = .ok (.notify 1#8 f1, []) := rfl
theorem test_decode_V_E6 : decode 2 .htx [0x0A#8] = .ok (.setMode .active, []) := rfl
theorem test_decode_V_E7 : (decode 2 .htx [0x03#8] = .ok (.sleep, [])) ∧ (decode 2 .htx [0x04#8] = .ok (.wakeup, [])) ∧
    (decode 2 .htx [0x05#8] = .ok (.requestRead, [])) := ⟨rfl, rfl, rfl⟩
theorem test_decode_V_E8 : decode 2 .htx [0x06#8] = .error .reservedOp ∧
    decode 2 .htx [0x07#8] = .error .reservedOp := ⟨rfl, rfl⟩
theorem test_decode_V_E9 : decode 2 .htx [0x21#8] = .error .reservedBits := rfl
theorem test_decode_V_E10_E11 : decode 2 .htx [0x0B#8] = .error .misplacedBit ∧
    decode 2 .htx [0x12#8] = .error .misplacedBit := ⟨rfl, rfl⟩
theorem test_decode_V_E12 : decode 2 .htx [0x01#8, 0x00#8, 0x00#8, 0x05#8, 0x42#8, 0x4D#8] = .error .truncated := rfl
theorem test_decode_V_E13 : decode 2 .htx [0x00#8, 0x04#8] = .error .channelTooWide := rfl
theorem test_decode_command_frames :
    decode 2 .cmd7 [0x42#8, 0x4D#8, 0xE1#8, 0x00#8, 0x00#8, 0x01#8, 0x70#8] = .ok (.cmdSetPassive, []) ∧
    decode 2 .cmd7 [0x42#8, 0x4D#8, 0xE1#8, 0x00#8, 0x01#8, 0x01#8, 0x71#8] = .ok (.cmdSetActive, []) ∧
    decode 2 .cmd7 [0x42#8, 0x4D#8, 0xE2#8, 0x00#8, 0x00#8, 0x01#8, 0x71#8] = .ok (.cmdRequestRead, []) ∧
    decode 2 .cmd7 [0x42#8, 0x4D#8, 0xE4#8, 0x00#8, 0x00#8, 0x01#8, 0x73#8] = .ok (.cmdSleep, []) ∧
    decode 2 .cmd7 [0x42#8, 0x4D#8, 0xE4#8, 0x00#8, 0x01#8, 0x01#8, 0x74#8] = .ok (.cmdWakeup, []) :=
  ⟨rfl, rfl, rfl, rfl, rfl⟩
theorem test_decode_data_frame :
    decode 2 .data32 f1 = .ok (.dataFrame ⟨0x001C#16, r1, 0x9700#16, 0x024A#16⟩, []) := rfl
theorem test_decode_unknown_frame :
    decode 2 .cmd7 [0x42#8, 0x4D#8, 0xE3#8, 0x00#8, 0x00#8, 0x01#8, 0x72#8] = .error .notACommandFrame := rfl

/-- every row of spec/opcode_table.json, by its own "match" word -/
theorem test_table_words :
    [(8, 0x00), (8, 0x01), (8, 0x02), (8, 0x03), (8, 0x04), (8, 0x05), (56, 0x424DE100000170), (56, 0x424DE100010171),
     (56, 0x424DE200000171), (56, 0x424DE400000173), (56, 0x424DE400010174), (16, 0x424D)].map
      (fun w => (decodeTableWord w.1 w.2).map Instr.format) =
    [some .htx, some .htx, some .htx, some .htx, some .htx, some .htx, some .cmd7, some .cmd7,
     some .cmd7, some .cmd7, some .cmd7, some .data32] := by decide
theorem test_table_init : decodeTableWord 8 0x18 = some (.init 0#8 true .active) := by decide
theorem test_table_cmd : decodeTableWord 56 0x424DE400000173 = some .cmdSleep := by decide

/-- step runs each row's word as the first instruction after reset -/
theorem test_first_step :
    [(8, 0x00), (8, 0x01), (8, 0x02), (8, 0x03), (8, 0x04), (8, 0x05), (56, 0x424DE100000170), (56, 0x424DE100010171),
     (56, 0x424DE200000171), (56, 0x424DE400000173), (56, 0x424DE400010174), (16, 0x424D)].all
      (fun w => goesOn (State.reset.withFetchWord w.1 w.2)) = true := by decide

/-- a 56-bit word that is no frame of R67 issues nothing (log 21); a reserved host word is refused (R73) -/
theorem test_table_no_frame : (State.reset.withFetchWord 56 0x424DE300000172).pending = [] ∧
    step (State.reset.withFetchWord 8 0x06) = .refused .illegalEncoding := ⟨rfl, rfl⟩

/-! ### The pure components -/

theorem test_locate_V_L7 : locate (List.replicate 9 0#8 ++ [0x42#8, 0x4D#8] ++ List.replicate 29 0#8) = none := by decide
theorem test_locate_V_L10 : locate (List.replicate 8 0#8 ++ [0x42#8, 0x4D#8] ++ List.replicate 30 0#8) = some 8 := by decide
theorem test_locate_V_L13 : locate ([0x42#8, 0x42#8, 0x4D#8] ++ List.replicate 30 0#8) = some 1 := by decide
theorem test_locate_V_L17 : locate (List.replicate 30 0#8 ++ [0x42#8, 0x4D#8]) = none := by decide
theorem test_checksum_V_C1 : checksumOk f1 = true := by decide
theorem test_checksum_V_C6 : checksumOk ((f1.set 4 0x01#8).set 5 0x04#8) = true := by decide
theorem test_checksum_V_C7_C8 : checksumOk (f1.set 30 0x03#8) = false ∧
    checksumOk ((f1.set 30 0x4A#8).set 31 0x02#8) = false := by decide
theorem test_decoder_V_X1 : decodeRecord f1 = r1 := by decide
theorem test_pack_V_X6 : (recordPack r1).extractLsb' 0 16 = 0x0005#16 ∧ (recordPack r1).extractLsb' 16 16 = 0x000F#16 ∧
    (recordPack r1).extractLsb' 176 16 = 0x0001#16 := by decide
theorem test_build_frame : frameBytes (buildFrame r1) = f1 := by decide

/-! ### The instructions, one step each -/

theorem test_init_V_H1 : (after (.init 0#8 true .active) (sys [Instance.reset] (draws 7))).map
    (fun k => (k.cfgValid, k.results, k.transmits)) =
    some (true, [.ok], [(0#8, [0x42#8, 0x4D#8, 0xE1#8, 0x00#8, 0x01#8, 0x01#8, 0x71#8])]) := by decide
theorem test_init_V_H4 : (after (.init 0#8 true .passive) (sys [Instance.reset] (draws 0))).map
    (fun k => (k.cfgValid, k.results, k.transmits)) =
    some (false, [.fail], [(0#8, [0x42#8, 0x4D#8, 0xE1#8, 0x00#8, 0x00#8, 0x01#8, 0x70#8])]) := by decide
theorem test_notify_V_D7 : (after (.notify 0#8 ([0x42#8, 0x4D#8] ++ f1)) (one (draws 7))).map
    (fun k => (k.deliveries, k.statuses, k.bufLen)) = some ([], [.integrityError], 0) := by decide
theorem test_notify_V_D8 : (after (.notify 0#8 ([0x00#8, 0xFF#8, 0x4D#8] ++ f1)) (one (draws 7))).map
    (fun k => (k.deliveries, k.statuses, k.bufLen)) = some ([r1], [.delivered], 0) := by decide
theorem test_set_mode_V_H8 : (after (.setMode .passive) (one (draws 7))).map (fun k => (k.results, k.transmits)) =
    some ([.ok], [(0#8, [0x42#8, 0x4D#8, 0xE1#8, 0x00#8, 0x00#8, 0x01#8, 0x70#8])]) := by decide
theorem test_sleep_V_H10 : (after .sleep (one (draws 0))).map (fun k => (k.results, k.transmits)) =
    some ([.fail], [(0#8, [0x42#8, 0x4D#8, 0xE4#8, 0x00#8, 0x00#8, 0x01#8, 0x73#8])]) := by decide
theorem test_wakeup_V_H11 : (after .wakeup (one (draws 7))).map (fun k => (k.results, k.transmits)) =
    some ([.ok], [(0#8, [0x42#8, 0x4D#8, 0xE4#8, 0x00#8, 0x01#8, 0x01#8, 0x74#8])]) := by decide
theorem test_request_read_V_H12 : (after .requestRead (one (draws 3))).map (fun k => (k.results, k.transmits)) =
    some ([.ok], [(0#8, [0x42#8, 0x4D#8, 0xE2#8, 0x00#8, 0x00#8, 0x01#8, 0x71#8])]) := by decide
theorem test_request_read_V_H14 : (after .requestRead (sys [Instance.reset] (draws 7))).map
    (fun k => (k.results, k.transmits)) = some ([.fail], []) := by decide
theorem test_cmd_set_passive : (after .cmdSetPassive (one (draws 7))).map (fun k => (k.results, k.transmits)) =
    some ([.ok], [(0#8, [0x42#8, 0x4D#8, 0xE1#8, 0x00#8, 0x00#8, 0x01#8, 0x70#8])]) := by decide
theorem test_cmd_set_active : (after .cmdSetActive (one (draws 0))).map (fun k => (k.results, k.transmits)) =
    some ([.fail], [(0#8, [0x42#8, 0x4D#8, 0xE1#8, 0x00#8, 0x01#8, 0x01#8, 0x71#8])]) := by decide
theorem test_cmd_request_read : (after .cmdRequestRead (one (draws 1))).map (fun k => (k.results, k.transmits)) =
    some ([.ok], [(0#8, [0x42#8, 0x4D#8, 0xE2#8, 0x00#8, 0x00#8, 0x01#8, 0x71#8])]) := by decide
theorem test_cmd_sleep : (after .cmdSleep (one (draws 7))).map (fun k => (k.results, k.transmits)) =
    some ([.ok], [(0#8, [0x42#8, 0x4D#8, 0xE4#8, 0x00#8, 0x00#8, 0x01#8, 0x73#8])]) := by decide
theorem test_cmd_wakeup : (after .cmdWakeup (one (draws 7))).map (fun k => (k.results, k.transmits)) =
    some ([.ok], [(0#8, [0x42#8, 0x4D#8, 0xE4#8, 0x00#8, 0x01#8, 0x01#8, 0x74#8])]) := by decide
theorem test_data_frame_S1 : (after (.dataFrame (buildFrame r1)) (one (draws 7))).map
    (fun k => (k.deliveries, k.statuses)) = some ([r1], [.delivered]) := by decide
theorem test_data_frame_S2 : (after (.dataFrame (buildFrame r1 (adj := 1))) (one (draws 7))).map
    (fun k => (k.deliveries, k.statuses)) = some ([], [.integrityError]) := by decide
theorem test_refusals_V_D12_V_H7 :
    refusal (.notify 0#8 (0#8 :: f1)) (sys [configured 0#8] (draws 7) (some 32)) = some .bufferCapacity ∧
    refusal (.init 0#8 true .active) (one (draws 7)) = some .reinit ∧
    refusal (.init 0#8 true .active) (sys [Instance.reset, configured 0#8] (draws 7)) = some .sharedChannel := by decide

/-- an instance that offers `R1` -/
def offering : Instance := { configured 0#8 with recOut := some r1, bufLen := 32 }

/-- R172: the acceptance of an offer as an event of its own -/
theorem test_accept_event : step (sys [offering] (draws 7) none [.accept 0]) =
    .next (sys [{ offering with recOut := none, bufLen := 0, deliveries := [r1], statuses := [.delivered] }]
      (draws 7)) := rfl

/-! ### Witnesses: states and operands that meet the hypotheses of each statement -/

/-- an instance whose NOTIFY waits for its consumer -/
def waiting : Instance := { appendData f1 (configured 0#8) with recOut := some r1 }

theorem ready_one (a : Answers) : (one a).Ready (configured 0#8) := ⟨rfl, rfl⟩

theorem ready_reset (a : Answers) : (sys [Instance.reset] a).Ready Instance.reset := ⟨rfl, rfl⟩

theorem cycle_of (a : Answers) (data : List Byte) (hd : data ≠ []) : Cycle (one a) (configured 0#8) data :=
  ⟨ready_one a, rfl, rfl, hd, by simp [one, sys]⟩

theorem inv_one (a : Answers) (es : List Event) : (sys [configured 0#8] a none es).Inv := by
  refine ⟨rfl, by simp [sys], fun k hk => ?_, by simp [distinctChannels, sys]⟩
  obtain rfl : k = configured 0#8 := by simpa [sys] using hk
  exact ⟨⟨List.Pairwise.nil, by simp [configured, Instance.reset]⟩, by simp [Memory.within, configured, Instance.reset],
    fun _ => rfl, rfl, ⟨[], rfl⟩, rfl, fun _ => rfl, by simp [configured, Instance.reset], rfl⟩

theorem witness_DecodeInvertsEncode : (Instr.notify 3#8 f1).wf 2 = true ∧ (Instr.init 3#8 true .active).wf 2 = true := by
  decide
theorem witness_DecodeAcceptsOnlyEncodings : decode 2 .htx [0x18#8, 0x03#8, 0x05#8] =
    .ok (.init 3#8 true .active, [0x05#8]) := rfl

/-- one witness for each clause of R73, at its boundary -/
theorem witness_IllegalHost_op : IllegalHost 2 [0x06#8] ∧ IllegalHost 2 [0x07#8] :=
  ⟨⟨_, _, rfl, .inl (.inl (by decide))⟩, ⟨_, _, rfl, .inl (.inr (by decide))⟩⟩
theorem witness_IllegalHost_bits : IllegalHost 2 [0x20#8, 0x00#8] ∧ IllegalHost 2 [0x0B#8] ∧ IllegalHost 2 [0x12#8] :=
  ⟨⟨_, _, rfl, .inr (.inl (by decide))⟩, ⟨_, _, rfl, .inr (.inr (.inl (by decide)))⟩,
   ⟨_, _, rfl, .inr (.inr (.inr (.inl (by decide))))⟩⟩
theorem witness_IllegalHost_channel : IllegalHost 2 [0x00#8, 0x04#8] ∧ IllegalHost 2 [0x01#8, 0x04#8, 0x00#8, 0x00#8] :=
  ⟨⟨_, _, rfl, .inr (.inr (.inr (.inr (.inl ⟨by decide, _, _, 2, rfl, by decide, by decide⟩))))⟩,
   ⟨_, _, rfl, .inr (.inr (.inr (.inr (.inl ⟨by decide, _, _, 2, rfl, by decide, by decide⟩))))⟩⟩
theorem witness_IllegalHost_truncated : IllegalHost 2 [0x01#8, 0x00#8, 0x00#8] ∧
    IllegalHost 2 [0x01#8, 0x00#8, 0x00#8, 0x01#8] :=
  ⟨⟨_, _, rfl, .inr (.inr (.inr (.inr (.inr ⟨by decide, .inl (by decide)⟩))))⟩,
   ⟨_, _, rfl, .inr (.inr (.inr (.inr (.inr ⟨by decide, .inr ⟨_, _, _, _, rfl, by decide⟩⟩))))⟩⟩
theorem witness_IllegalHostEncodingsRefused :
    let s := sys [configured 0#8] (draws 7) none [.present 0 [0x06#8] (draws 7)]
    s.refusalMark = none ∧ s.pending = .present 0 [0x06#8] (draws 7) :: [] ∧ IllegalHost s.params.chW [0x06#8] ∧
      decode 2 .htx [0x03#8] = .ok (.sleep, []) :=
  ⟨rfl, rfl, witness_IllegalHost_op.1, rfl⟩
theorem witness_ResetLeavesNoHandle : Instance.reset ∈ (State.resetWith Config.resetParams 1).insts := by decide
theorem witness_ResetEventResetsOneInstance :
    let s := sys [configured 0#8, configured 1#8] (draws 7) none [.reset 0]
    s.refusalMark = none ∧ s.pending = .reset 0 :: [] ∧ s.insts[0]? = some (configured 0#8) ∧
      (configured 0#8).recOut = none ∧ (1 : Nat) ≠ 0 :=
  ⟨rfl, rfl, rfl, rfl, by decide⟩
theorem witness_ResetMeetsInvariant : Config.resetParams.wf = true ∧ 0 < Config.resetInstances := by decide
theorem witness_StepKeepsInvariant :
    ∃ s t : State, s.Inv ∧ step s = .next t ∧ t.insts ≠ s.insts :=
  ⟨_, _, inv_one (draws 7) [.present 0 [0x03#8] (draws 7)], rfl, by decide⟩
theorem witness_LocatorSourceProperties :
    (∀ q, ¬ MarkerAt [] q) ∧
    (MarkerAt (f1.take 31) 0 ∧ (f1.take 31).length < 0 + 32) ∧
    (MarkerAt f1 0 ∧ 0 + 32 ≤ f1.length ∧ ∀ j, j < 0 → ¬ MarkerAt f1 j) ∧
    (MarkerAt (f1 ++ f1) 32 ∧ 32 + 32 ≤ (f1 ++ f1).length) :=
  ⟨by simp [MarkerAt], by unfold MarkerAt; decide, by unfold MarkerAt; decide, by unfold MarkerAt; decide⟩
theorem witness_ReadsAreBounded : locate f1 = some 0 ∧ 0 ∈ scanReads f1 ∧
    (f1Bad ≠ f1 ∧ f1Bad.length = f1.length ∧ (∀ a ∈ scanReads f1, f1Bad[a]? = f1[a]?)) ∧
    (∀ j ∈ checksumReads, f1[j]? = f1Bad[j]?) ∧ (∀ j ∈ decodeReads, f1[j]? = f1Bad[j]?) ∧
    ((f1.set 4 0x01#8).set 5 0x04#8).length = 32 := by decide
theorem witness_ChecksumIsExactSum : f1.length = 32 := rfl
theorem witness_ChecksumCornerCases : f1.length = 32 ∧ checksumOk f1 = true ∧ (29 < 30 ∧ 0x01#8 ≠ byteAt f1 29) ∧
    (0x01#8).toNat + (0x04#8).toNat = (byteAt f1 4).toNat + (byteAt f1 5).toNat ∧
    ¬(0x03#8 = byteAt f1 30 ∧ 0x4A#8 = byteAt f1 31) ∧ byteAt f1 30 ≠ byteAt f1 31 := by decide
theorem witness_ChecksumFieldRange :
    let F := [0x42#8, 0x4D#8] ++ List.replicate 28 0#8 ++ [0x00#8, 0x8E#8]
    let G := [0x42#8, 0x4D#8] ++ List.replicate 28 0xFF#8 ++ [0x1D#8, 0xE3#8]
    locate F = some 0 ∧ F.length = 32 ∧ byteAt F 0 = 0x42#8 ∧ byteAt F 1 = 0x4D#8 ∧ (be16At F 30).toNat < 0x8F ∧
      G.length = 32 ∧ 0x1DE2 < (be16At G 30).toNat := by decide
theorem witness_DecoderFollowsOffsetTable : f1.length = 32 := rfl
theorem witness_DecoderReadsOnlyMeasurements :
    f1 ≠ f1Bad ∧ ∀ j, j < 28 → 4 ≤ j → byteAt f1 j = byteAt f1Bad j := by decide
theorem witness_RecordOutPacking : (recordList r1)[11]? = some 1#16 ∧ (recordList r1)[0]? = some 5#16 := by decide
theorem witness_BufferReadAfterWrite : Memory.wf [(3, 7#8), (5, 9#8)] := by decide
theorem witness_AppendWritesPayloadInOrder : (configured 0#8).bufLen = 0 ∧ 31 < f1.length ∧
    (configured 0#8).bufLen + f1.length ≤ 32 ∧ 31 < waiting.bufLen := by decide
theorem witness_NotifyIgnoresWhatIsNotItsOwn : (sys [Instance.reset] (draws 7)).Ready Instance.reset ∧
    Instance.reset.cfgValid = false ∧ (one (draws 7)).Ready (configured 0#8) ∧ (configured 0#8).cfgValid = true ∧
    1#8 ≠ (configured 0#8).cfgChannel :=
  ⟨ready_reset _, rfl, ready_one _, rfl, by decide⟩
theorem witness_NotifyBeyondCapacityRefused :
    let s := sys [configured 0#8] (draws 7) (some 32)
    s.Ready (configured 0#8) ∧ (configured 0#8).cfgValid = true ∧ s.params.bufCap = some 32 ∧ 32 < (0#8 :: f1).length ∧
      (one (draws 7)).params.bufCap = none :=
  ⟨⟨rfl, rfl⟩, rfl, rfl, by decide, rfl⟩
theorem witness_FramingErrorDiscardsBuffer :
    Cycle (one (draws 7)) (configured 0#8) [0x4D#8, 0x42#8] ∧
      locate [0x4D#8, 0x42#8] = none :=
  ⟨cycle_of _ _ (by decide), by decide⟩
theorem witness_IntegrityErrorDiscardsBuffer :
    Cycle (one (draws 7)) (configured 0#8) f1Bad ∧ locate f1Bad = some 0 ∧
      checksumOk ((f1Bad.drop 0).take 32) = false :=
  ⟨cycle_of _ _ (by decide), by decide, by decide⟩
theorem witness_ValidFrameIsDelivered :
    Cycle (one (draws 7)) (configured 0#8) f1 ∧ locate f1 = some 0 ∧
      checksumOk ((f1.drop 0).take 32) = true ∧ (one (draws 7)).answers.accepts = true :=
  ⟨cycle_of _ _ (by decide), by decide, by decide, rfl⟩
theorem witness_DeliveryWaitsForConsumer :
    (Cycle (one (draws 7 false)) (configured 0#8) f1 ∧ (one (draws 7 false)).answers.accepts = false) ∧
    (let s := sys [waiting] (draws 7)
     s.insts[0]? = some waiting ∧ waiting.recOut = some r1 ∧ step s = .next s ∧ s.pending.head? ≠ some (.accept 0)) ∧
    (let s := sys [waiting] (draws 7) none [.accept 0]
     s.refusalMark = none ∧ s.pending = .accept 0 :: [] ∧ s.insts[0]? = some waiting) :=
  ⟨⟨cycle_of _ _ (by decide), rfl⟩, ⟨rfl, rfl, rfl, by decide⟩, ⟨rfl, rfl, rfl⟩⟩
theorem witness_BusyInstanceRefusesEveryOperation :
    (sys [waiting] (draws 7)).insts[(sys [waiting] (draws 7)).cur]? = some waiting ∧ waiting.recOut = some r1 :=
  ⟨rfl, rfl⟩
theorem witness_DataFrameDeliveredExactlyWhenValid : (one (draws 7)).Ready (configured 0#8) ∧
    (configured 0#8).bufLen = 0 ∧ (configured 0#8).cfgValid = true ∧
    (∀ c, (one (draws 7)).params.bufCap = some c → 32 ≤ c) ∧ (one (draws 7)).answers.accepts = true :=
  ⟨ready_one _, rfl, rfl, by simp [one, sys], rfl⟩
theorem witness_DataFrameRunsAsNotification : (one (draws 7)).Ready (configured 0#8) := ready_one _
theorem witness_DataFrameIgnoredUnconfigured : (sys [Instance.reset] (draws 7)).Ready Instance.reset ∧
    Instance.reset.cfgValid = false := ⟨ready_reset _, rfl⟩
theorem witness_NotifyStatusTable : (∃ t k', (one (draws 7)).Ready (configured 0#8) ∧ (configured 0#8).bufLen = 0 ∧
    exec (.notify 0#8 f1) (one (draws 7)) = .next t ∧ t.insts[t.cur]? = some k' ∧ k'.recOut = none) ∧
    exec (.notify 0#8 (0#8 :: f1)) (sys [configured 0#8] (draws 7) (some 32)) = .refused .bufferCapacity :=
  ⟨⟨_, _, ready_one _, rfl, rfl, rfl, rfl⟩, rfl⟩
theorem witness_AtMostOneRecordFromOwnPayload : ∃ t k', (one (draws 7)).Ready (configured 0#8) ∧
    (configured 0#8).bufLen = 0 ∧ exec (.notify 0#8 f1) (one (draws 7)) = .next t ∧ t.insts[t.cur]? = some k' :=
  ⟨_, _, ready_one _, rfl, rfl, rfl⟩
theorem witness_ShortNotificationNeverDelivers :
    Cycle (one (draws 7)) (configured 0#8) (f1.take 31) ∧ (f1.take 31).length < 32 :=
  ⟨cycle_of _ _ (by decide), by decide⟩
theorem witness_BytesAfterFrameDoNotMatter :
    Cycle (one (draws 7)) (configured 0#8) (f1 ++ f1) ∧
    Cycle (one (draws 7)) (configured 0#8) ((f1 ++ f1).take (0 + 32) ++ [0x42#8]) ∧ locate (f1 ++ f1) = some 0 :=
  ⟨cycle_of _ _ (by decide), cycle_of _ _ (by decide), by decide⟩
theorem witness_FalseMarkerHidesFrame : f1.length = 32 := rfl
theorem witness_InitFollowsItsPseudocode :
    ((one (draws 7)).Ready (configured 0#8) ∧ (configured 0#8).cfgValid = true) ∧
    ((sys [Instance.reset] (draws 0)).Ready Instance.reset ∧ Instance.reset.cfgValid = false ∧
      (sys [Instance.reset] (draws 0)).answers.devCfgOk = true ∧ ModeWriteFails (sys [Instance.reset] (draws 0))) ∧
    ((sys [Instance.reset] Answers.reset).answers.devCfgOk = false) ∧
    (¬ ModeWriteFails (sys [Instance.reset] (draws 1)) ∧
      ∀ j ∈ (sys [Instance.reset] (draws 1)).insts, j.cfgValid = true → j.cfgChannel ≠ 0#8) :=
  ⟨⟨ready_one _, rfl⟩, ⟨ready_reset _, rfl, rfl, ⟨rfl, rfl, rfl⟩⟩, rfl, ⟨by unfold ModeWriteFails; decide, by decide⟩⟩
theorem witness_FailedInitAllocatesNothing : ∃ t k', (sys [Instance.reset] (draws 0)).Ready Instance.reset ∧
    exec (.init 0#8 true .passive) (sys [Instance.reset] (draws 0)) = .next t ∧ t.insts[t.cur]? = some k' ∧
    k'.results = Instance.reset.results ++ [.fail] :=
  ⟨_, _, ready_reset _, rfl, rfl, rfl⟩
theorem witness_ReinitRefusedUntilReset : ∃ t, (one (draws 7)).Ready (configured 0#8) ∧
    (configured 0#8).cfgValid = true ∧ (sys [configured 0#8] (draws 7) none [.reset 0]).Ready (configured 0#8) ∧
    (sys [configured 0#8] (draws 7) none [.reset 0]).refusalMark = none ∧
    step (sys [configured 0#8] (draws 7) none [.reset 0]) = .next t :=
  ⟨_, ready_one _, rfl, ⟨rfl, rfl⟩, rfl, rfl⟩
theorem witness_SharedChannelRefused :
    let s := sys [Instance.reset, configured 0#8] (draws 7)
    s.Ready Instance.reset ∧ Instance.reset.cfgValid = false ∧ s.answers.devCfgOk = true ∧ ¬ ModeWriteFails s ∧
      configured 0#8 ∈ s.insts ∧ (configured 0#8).cfgValid = true ∧ (configured 0#8).cfgChannel = 0#8 :=
  ⟨⟨rfl, rfl⟩, rfl, rfl, by unfold ModeWriteFails; decide, by decide, rfl, rfl⟩
theorem witness_CommandsHandOverTheirFrame :
    (Instr.sleep, [0x42#8, 0x4D#8, 0xE4#8, 0x00#8, 0x00#8, 0x01#8, 0x73#8]) ∈ hostCommand ∧
      (one (draws 0)).Ready (configured 0#8) ∧ (configured 0#8).cfgValid = true :=
  ⟨by decide, ready_one _, rfl⟩
theorem witness_CommandFramesHandThemselvesOver :
    (Instr.cmdWakeup, [0x42#8, 0x4D#8, 0xE4#8, 0x00#8, 0x01#8, 0x01#8, 0x74#8]) ∈ frameCommand ∧
      (one (draws 1)).Ready (configured 0#8) ∧ (configured 0#8).cfgValid = true :=
  ⟨by decide, ready_one _, rfl⟩
theorem witness_CommandsFailUnconfigured :
    (Instr.sleep, [0x42#8, 0x4D#8, 0xE4#8, 0x00#8, 0x00#8, 0x01#8, 0x73#8]) ∈ hostCommand ++ frameCommand ∧
      (sys [Instance.reset] (draws 7)).Ready Instance.reset ∧ Instance.reset.cfgValid = false :=
  ⟨by decide, ready_reset _, rfl⟩
theorem witness_CommandFramesAreNeverReceived :
    decode 2 .htx [0x03#8] = .ok (.sleep, []) ∧ sleepFrame ∈ commandFrames ∧
    (sys [configured 0#8] (draws 7) none [.present 0 sleepFrame (draws 7)]).pending =
      .present 0 (sleepFrame ++ []) (draws 7) :: [] ∧
    Cycle (one (draws 7)) (configured 0#8) sleepFrame :=
  ⟨rfl, by decide, rfl, cycle_of _ _ (by decide)⟩
theorem witness_TransmitAndReceiveAreIndependent :
    (∃ t k', (Instr.sleep, [0x42#8, 0x4D#8, 0xE4#8, 0x00#8, 0x00#8, 0x01#8, 0x73#8]) ∈ hostCommand ∧
      (one (draws 7)).Ready (configured 0#8) ∧ exec .sleep (one (draws 7)) = .next t ∧ t.insts[t.cur]? = some k') ∧
    (∃ k', exec .sleep (one (draws 7)) = .next (putInst (one (draws 7)) k')) ∧
    (∃ k', exec (.notify 0#8 f1) (one (draws 7)) = .next (putInst (one (draws 7)) k')) :=
  ⟨⟨_, _, by decide, ready_one _, rfl, rfl⟩, ⟨_, rfl⟩, ⟨_, rfl⟩⟩
theorem witness_OtherInstancesUntouched : ∃ t, exec .sleep (sys [configured 0#8, configured 1#8] (draws 7)) = .next t :=
  ⟨_, rfl⟩
theorem witness_OperationsOnDifferentInstancesCommute : ∃ t u, (0 : Nat) ≠ 1 ∧
    exec (.init 0#8 true .active) (fetched 0 (draws 7) [] (sys [Instance.reset, Instance.reset] (draws 7))) = .next t ∧
    exec (.init 1#8 true .active) (fetched 1 (draws 7) [] t) = .next u :=
  ⟨_, _, by decide, rfl, rfl⟩
theorem witness_OnlyInitConfiguresOnlyResetClears :
    (∃ t k', step (sys [configured 0#8] (draws 7) none [.reset 0]) = .next t ∧ t.insts[0]? = some k' ∧
      (configured 0#8).cfgValid = true ∧ k'.cfgValid = false) ∧
    (∃ t k', step (sys [Instance.reset] (draws 7) none [.present 0 [0x18#8, 0x01#8] (draws 7)]) = .next t ∧
      t.insts[0]? = some k' ∧ Instance.reset.cfgValid = false ∧ k'.cfgValid = true) :=
  ⟨⟨_, _, rfl, rfl, rfl, rfl⟩, ⟨_, _, rfl, rfl, rfl, rfl⟩⟩
theorem witness_OneResultPerCallerOperation : ∃ t k', (one (draws 7)).Ready (configured 0#8) ∧
    exec .wakeup (one (draws 7)) = .next t ∧ t.insts[t.cur]? = some k' :=
  ⟨_, _, ready_one _, rfl, rfl⟩
theorem witness_OnlyTheFiveFramesAreEmitted : ∃ t k', (one (draws 7)).Ready (configured 0#8) ∧
    exec .requestRead (one (draws 7)) = .next t ∧ t.insts[t.cur]? = some k' :=
  ⟨_, _, ready_one _, rfl, rfl⟩
theorem witness_OperationsStopOnlyAsRefusalsSay : (sys [configured 0#8] (draws 7)).Inv ∧
    (sys [configured 0#8] (draws 7)).insts[0]? = some (configured 0#8) ∧
    exec (.init 0#8 true .active) (sys [configured 0#8] (draws 7)) = .refused .reinit :=
  ⟨inv_one _ _, rfl, rfl⟩
theorem witness_StepRunsTheDecodedInstruction :
    let s := sys [configured 0#8] (draws 7) none [.present 0 [0x03#8, 0x04#8] (draws 1)]
    s.refusalMark = none ∧ s.pending = .present 0 [0x03#8, 0x04#8] (draws 1) :: [] ∧
      decode s.params.chW .htx [0x03#8, 0x04#8] = .ok (.sleep, [0x04#8]) ∧ (one (draws 7)).pending = [] ∧
      (sys [configured 0#8] (draws 7) none [.emit 0 .sleep (draws 1)]).pending = .emit 0 .sleep (draws 1) :: [] ∧
      (sys [configured 0#8] (draws 7) none [.arrive 0 (buildFrame r1) (draws 1)]).pending =
        .arrive 0 (buildFrame r1) (draws 1) :: [] :=
  ⟨rfl, rfl, rfl, rfl, rfl, rfl⟩
/-- one witness for each encoding -/
theorem witness_TableWordRunsItsInstruction :
    decode 2 (tableFormat 8) (tableBytes 8 0x03) = .ok (.sleep, List.replicate 31 0#8) ∧
    decode 2 (tableFormat 56) (tableBytes 56 0x424DE400000173) = .ok (.cmdSleep, List.replicate 25 0#8) ∧
    (∃ f, decode 2 (tableFormat 16) (tableBytes 16 0x424D) = .ok (.dataFrame f, [])) := ⟨rfl, rfl, _, rfl⟩
/-- one witness for each of the five refusals -/
theorem witness_RefusalsAreExactlyTheFive :
    step (sys [configured 0#8] (draws 7) none [.present 0 [0x06#8] (draws 7)]) = .refused .illegalEncoding ∧
    step (sys [configured 0#8] (draws 7) (some 32) [.present 0 (encode (.notify 0#8 (0#8 :: f1))) (draws 7)]) =
      .refused .bufferCapacity ∧
    step (sys [configured 0#8] (draws 7) none [.present 0 [0x18#8, 0x00#8] (draws 7)]) = .refused .reinit ∧
    step (sys [waiting] (draws 7) none [.arrive 0 (buildFrame r1) (draws 7)]) = .refused .reentrant ∧
    step (sys [Instance.reset, configured 0#8] (draws 7) none [.present 0 [0x18#8, 0x00#8] (draws 7)]) =
      .refused .sharedChannel ∧
    (sys [waiting] (draws 7) none [.arrive 0 (buildFrame r1) (draws 7)]).refusalMark = none ∧
    (∃ s', Runs (sys [waiting] (draws 7) none [.arrive 0 (buildFrame r1) (draws 7)]) (.dataFrame (buildFrame r1)) s' ∧
      exec (.dataFrame (buildFrame r1)) s' = .refused .reentrant) ∧
    (∃ s', Runs (sys [waiting] (draws 7) none [.emit 0 .sleep (draws 7)]) .cmdSleep s' ∧
      exec .cmdSleep s' = .refused .reentrant) ∧
    (∃ s', Runs (sys [waiting] (draws 7) none [.present 0 [0x03#8, 0x04#8] (draws 7)]) .sleep s' ∧
      exec .sleep s' = .refused .reentrant) :=
  ⟨rfl, rfl, rfl, rfl, rfl, rfl, ⟨_, ⟨_, _, _, .inr (.inr ⟨_, rfl, rfl, rfl⟩)⟩, rfl⟩,
   ⟨_, ⟨_, _, _, .inr (.inl ⟨.sleep, rfl, rfl, rfl⟩)⟩, rfl⟩, ⟨_, ⟨_, _, _, .inl ⟨_, [0x04#8], rfl, rfl, rfl⟩⟩, rfl⟩⟩
theorem witness_RefusalMarkIsKept :
    step (sys [configured 0#8] (draws 7) none [.present 0 [0x06#8] (draws 7)]) = .refused .illegalEncoding ∧
      ((one (draws 7)).markRefused .reinit).refusalMark = some .reinit :=
  ⟨rfl, rfl⟩
theorem witness_MeaninglessEventsFault :
    (let s := sys [waiting] (draws 7) none [.reset 0]
     s.refusalMark = none ∧ s.pending = .reset 0 :: [] ∧ s.insts[0]? = some waiting ∧ waiting.recOut = some r1) ∧
    (let s := sys [configured 0#8] (draws 7) none [.accept 1]
     s.refusalMark = none ∧ s.insts.length ≤ 1 ∧ s.pending = .accept 1 :: []) ∧
    (let s := sys [configured 0#8] (draws 7) none [.reset 1]
     s.refusalMark = none ∧ s.insts.length ≤ 1 ∧ s.pending = .reset 1 :: []) ∧
    (let s := sys [configured 0#8] (draws 7) none [.present 1 [0x03#8] (draws 7)]
     s.refusalMark = none ∧ s.insts.length ≤ 1 ∧ s.pending = .present 1 [0x03#8] (draws 7) :: [] ∧
      decode s.params.chW .htx [0x03#8] = .ok (.sleep, [])) ∧
    (let s := sys [configured 0#8] (draws 7) none [.emit 1 .sleep (draws 7)]
     s.refusalMark = none ∧ s.insts.length ≤ 1 ∧ s.pending = .emit 1 .sleep (draws 7) :: []) ∧
    (let s := sys [configured 0#8] (draws 7) none [.arrive 1 (buildFrame r1) (draws 7)]
     s.refusalMark = none ∧ s.insts.length ≤ 1 ∧ s.pending = .arrive 1 (buildFrame r1) (draws 7) :: []) ∧
    (sys [] (draws 7)).insts.length ≤ (sys [] (draws 7)).cur :=
  ⟨⟨rfl, rfl, rfl, rfl⟩, ⟨rfl, by decide, rfl⟩, ⟨rfl, by decide, rfl⟩, ⟨rfl, by decide, rfl, rfl⟩, ⟨rfl, by decide, rfl⟩,
   ⟨rfl, by decide, rfl⟩, by decide⟩
theorem witness_HiddenStateIsNeverObserved :
    let k := { Instance.reset with cfgChannel := 3#8, buf := [(0, 7#8)] }
    State.SameOutside (sys [Instance.reset] (draws 7)) (sys [k] (draws 7)) ∧ k ≠ Instance.reset :=
  ⟨⟨rfl, rfl, rfl, rfl, rfl, .cons ⟨rfl, fun h => (by cases h), rfl, rfl, rfl, rfl⟩ .nil⟩, by decide⟩

end Sys2Proof.Tests
end

section
/-! SUPPORT. What runs in a step that answers a next state, and what it leaves alone (10_state.md R32; 00_scope.md R7). -/

namespace Sys2Proof.Machine

open Sys2Proof.Statements (Runs)

/-! ### What stands at a place of the system -/

/-- With the value `x` put at place `m`, what stands at a place is `x` or what stood there before. -/
theorem set_getElem?_cases {ks : List Instance} {m n : Nat} {x k k' : Instance} (hk : ks[n]? = some k)
    (hk' : (ks.set m x)[n]? = some k') : (m = n ∧ k' = x) ∨ k' = k := by
  rcases eq_or_ne m n with rfl | hmn
  · obtain ⟨hlt, -⟩ := List.getElem?_eq_some_iff.mp hk
    rw [List.getElem?_set_self hlt] at hk'
    exact .inl ⟨rfl, (Option.some.inj hk').symm⟩
  · rw [List.getElem?_set_ne hmn, hk] at hk'
    exact .inr (Option.some.inj hk').symm

/-- What an instruction makes of any one core: only the one it is presented to can change (R32). -/
theorem exec_next_getElem? {i : Instr} {s t : State} {n : Nat} {k k' : Instance} (hx : exec i s = .next t)
    (hk : s.insts[n]? = some k) (hk' : t.insts[n]? = some k') : (s.cur = n ∧ Change s k i k') ∨ k' = k := by
  obtain ⟨k₀, k₁, hr, rfl, hch⟩ := exec_next hx
  refine (set_getElem?_cases hk hk').imp_left ?_
  rintro ⟨rfl, rfl⟩
  obtain rfl : k₀ = k := Option.some.inj (hr.1.symm.trans hk)
  exact ⟨rfl, hch⟩

/-! ### What a step takes from the host -/

/-- A state that carries a refusal mark refuses again (R12, R238). -/
theorem step_marked {s : State} {r : Refusal} (hm : s.refusalMark = some r) : step s = .refused r := by
  simp [step, hm]

/-- With no event the block does nothing (R7). -/
theorem step_idle {s : State} (hm : s.refusalMark = none) (hp : s.pending = []) : step s = .next s := by
  simp [step, hm, hp]

theorem step_accept {s : State} {n : Nat} {es : List Event} (hm : s.refusalMark = none)
    (hp : s.pending = .accept n :: es) : step s = acceptEvent n { s with pending := es } := by
  simp [step, hm, hp]

theorem step_reset {s : State} {n : Nat} {es : List Event} (hm : s.refusalMark = none)
    (hp : s.pending = .reset n :: es) : step s = resetEvent n { s with pending := es } := by
  simp [step, hm, hp]

/-- Presented bytes that spell no operation are refused (R73). -/
theorem step_present_illegal {s : State} {n : Nat} {bs : List Byte} {a : Answers} {es : List Event} {e : DecodeError}
    (hm : s.refusalMark = none) (hp : s.pending = .present n bs a :: es)
    (hd : decode s.params.chW .htx bs = .error e) : step s = .refused .illegalEncoding := by
  simp [step, hm, hp, hd]

/-- What a step can do where it has a next state, the three events that carry an operation taken as one. -/
theorem step_next_runs {s t : State} (h : step s = .next t) :
    (s.pending = [] ∧ t = s) ∨
    (∃ n es, s.pending = .accept n :: es ∧ acceptEvent n { s with pending := es } = .next t) ∨
    (∃ n es, s.pending = .reset n :: es ∧ resetEvent n { s with pending := es } = .next t) ∨
    (∃ i s', Runs s i s' ∧ exec i s' = .next t) := by
  obtain ⟨-, hidle | haccept | hreset | ⟨n, bs, a, es, i, rest, hp, hd, hx⟩ | ⟨n, c, a, es, hp, hx⟩ |
    ⟨n, f, a, es, hp, hx⟩⟩ := step_next h
  · exact .inl hidle
  · exact .inr (.inl haccept)
  · exact .inr (.inr (.inl hreset))
  · exact .inr (.inr (.inr ⟨i, _, ⟨n, a, es, .inl ⟨bs, rest, hp, hd, by rw [← remaining_eq]; rfl⟩⟩, hx⟩))
  · exact .inr (.inr (.inr ⟨_, _, ⟨n, a, es, .inr (.inl ⟨c, hp, rfl, rfl⟩)⟩, hx⟩))
  · exact .inr (.inr (.inr ⟨_, _, ⟨n, a, es, .inr (.inr ⟨f, hp, rfl, rfl⟩)⟩, hx⟩))

theorem runs_insts {s s' : State} {i : Instr} (h : Runs s i s') : s'.insts = s.insts := by
  obtain ⟨n, a, es, ⟨_, _, -, -, rfl⟩ | ⟨_, -, -, rfl⟩ | ⟨_, -, -, rfl⟩⟩ := h <;> rfl

theorem runs_params {s s' : State} {i : Instr} (h : Runs s i s') : s'.params = s.params := by
  obtain ⟨n, a, es, ⟨_, _, -, -, rfl⟩ | ⟨_, -, -, rfl⟩ | ⟨_, -, -, rfl⟩⟩ := h <;> rfl

/-- INIT comes only by presented bytes: it is no command frame and no data frame (R70). -/
theorem runs_init {s s' : State} {ch : Channel} {sink : Bool} {mode : Mode} (h : Runs s (.init ch sink mode) s') :
    ∃ bs a es rest, s.pending = .present s'.cur bs a :: es ∧
      decode s.params.chW .htx bs = .ok (.init ch sink mode, rest) := by
  obtain ⟨n, a, es, ⟨bs, rest, hp, hd, rfl⟩ | ⟨c, -, hc, -⟩ | ⟨f, -, hf, -⟩⟩ := h
  · exact ⟨bs, a, es, rest, hp, hd⟩
  · cases c <;> cases hc
  · cases hf

end Sys2Proof.Machine
end

section
/-! SUPPORT. What the host's decoder accepts is well formed (30_encoding.md R71, R73). -/

namespace Sys2Proof

open Machine

theorem decodeInit_wf {chW : Nat} {h : Byte} {body rest : List Byte} {i : Instr}
    (hd : decodeInit chW h body = .ok (i, rest)) : i.wf chW = true := by
  unfold decodeInit at hd
  split at hd
  · split at hd
    · rename_i hch
      cases hd
      exact hch
    · cases hd
  · cases hd

theorem decodeNotify_wf {chW : Nat} {body rest : List Byte} {i : Instr}
    (hd : decodeNotify chW body = .ok (i, rest)) : i.wf chW = true := by
  unfold decodeNotify at hd
  split at hd
  · rename_i ch n1 n0 data
    split at hd
    · rename_i hch
      split at hd
      · cases hd
      · cases hd
        have hn : (be16 n1 n0).toNat < 65536 := (be16 n1 n0).isLt
        have hl : (data.take (be16 n1 n0).toNat).length < 65536 := by
          rw [List.length_take]; omega
        simp only [Instr.wf, hch, decide_eq_true hl, Bool.and_self]
    · cases hd
  · cases hd

theorem decodePlain_eq_ok {h : Byte} {i j : Instr} {body rest : List Byte}
    (hd : decodePlain h i body = .ok (j, rest)) : j = i := by
  unfold decodePlain at hd
  split at hd
  · cases hd
  · cases hd; rfl

theorem decodeHost_wf {chW : Nat} {bs rest : List Byte} {i : Instr}
    (hd : decodeHost chW bs = .ok (i, rest)) : i.wf chW = true := by
  unfold decodeHost at hd
  split at hd
  · cases hd
  · split at hd
    · cases hd
    · split at hd
      · exact decodeInit_wf hd
      · split at hd
        · cases hd
        · exact decodeNotify_wf hd
      · split at hd
        · cases hd
        · cases hd; rfl
      · rw [decodePlain_eq_ok hd]; rfl
      · rw [decodePlain_eq_ok hd]; rfl
      · rw [decodePlain_eq_ok hd]; rfl
      · cases hd

end Sys2Proof

namespace Sys2Proof.Machine

/-- Whatever a step runs is well formed: presented bytes are decoded, and frames have no operand that could be too wide. -/
theorem runs_wf {s s' : State} {i : Instr} (h : Statements.Runs s i s') : i.wf s.params.chW = true := by
  obtain ⟨n, a, es, ⟨bs, rest, -, hd, -⟩ | ⟨c, -, rfl, -⟩ | ⟨f, -, rfl, -⟩⟩ := h
  · exact decodeHost_wf hd
  · exact command_instr_wf c _
  · rfl

end Sys2Proof.Machine
end

section
/-! The frame of an operation (10_state.md R32), and who changes a configuration (10_state.md R21; 70_reset_and_hazards.md
R251). -/

namespace Sys2Proof.Machine

open Sys2Proof.Statements (Runs)

/-- Settles O32: an instruction that goes on puts one new value at the place `cur`. -/
theorem otherInstancesUntouched : Obligations.OtherInstancesUntouched := by
  intro i s t hx
  obtain ⟨k, k', -, rfl, -⟩ := exec_next hx
  exact ⟨by simp, fun n hn => putInst_other s k' hn, rfl, rfl, rfl, rfl, rfl⟩

/-- An acceptance changes no core's configuration. -/
theorem acceptEvent_cfgValid {s t : State} {m n : Nat} {k k' : Instance} (h : acceptEvent m s = .next t)
    (hk : s.insts[n]? = some k) (hk' : t.insts[n]? = some k') : k'.cfgValid = k.cfgValid := by
  obtain ⟨j, hj, ⟨-, rfl⟩ | ⟨r, -, rfl⟩⟩ := acceptEvent_next h
  · rw [Option.some.inj (hk.symm.trans hk')]
  · obtain ⟨rfl, rfl⟩ | rfl := set_getElem?_cases hk hk'
    · rw [Option.some.inj (hk.symm.trans hj), completeDelivery_cfgValid]
    · rfl

/-- A reset leaves its own core unconfigured and every other as it was. -/
theorem resetEvent_getElem? {s t : State} {m n : Nat} {k k' : Instance} (h : resetEvent m s = .next t)
    (hk : s.insts[n]? = some k) (hk' : t.insts[n]? = some k') : (m = n ∧ k'.cfgValid = false) ∨ k' = k := by
  obtain ⟨_, -, -, rfl⟩ := resetEvent_next h
  exact (set_getElem?_cases hk hk').imp_left fun ⟨hm, e⟩ => ⟨hm, by rw [e]; rfl⟩

/-- A core whose configuration an instruction changes was unconfigured, and the instruction is an INIT with a consumer
that the core was presented and answered `OK` (R21). -/
theorem exec_next_cfgValid {i : Instr} {s t : State} {n : Nat} {k k' : Instance} (hx : exec i s = .next t)
    (hk : s.insts[n]? = some k) (hk' : t.insts[n]? = some k') :
    k'.cfgValid = k.cfgValid ∨
    (s.cur = n ∧ k.cfgValid = false ∧ k'.results = k.results ++ [.ok] ∧
      ∃ mode, i = .init k'.cfgChannel true mode) := by
  obtain ⟨hn, hch⟩ | rfl := exec_next_getElem? hx hk hk'
  · obtain ⟨hv, -⟩ | ⟨ch, mode, rfl, hv, rfl, -⟩ := change_config hch
    · exact .inl hv
    · rw [initDone_fields]
      exact .inr ⟨hn, hv, rfl, mode, rfl⟩
  · exact .inl rfl

/-- Settles O27, by what the step took from the host: only a reset clears a configuration and only an operation sets one. -/
theorem onlyInitConfiguresOnlyResetClears : Obligations.OnlyInitConfiguresOnlyResetClears := by
  intro s t n k k' hstep hk hk'
  have unchanged : ∀ {P Q : Prop}, k'.cfgValid = k.cfgValid →
      (k.cfgValid = true → k'.cfgValid = false → P) ∧ (k.cfgValid = false → k'.cfgValid = true → Q) := by
    intro P Q hv
    constructor <;> intro h h' <;> simp [hv, h] at h'
  obtain ⟨-, rfl⟩ | ⟨m, es, -, h⟩ | ⟨m, es, hp, h⟩ | ⟨i, s', hrun, hx⟩ := step_next_runs hstep
  · exact unchanged (by rw [Option.some.inj (hk.symm.trans hk')])
  · exact unchanged (acceptEvent_cfgValid h hk hk')
  · obtain ⟨rfl, hv⟩ | rfl := resetEvent_getElem? h hk hk'
    · exact ⟨fun _ _ => by rw [hp]; rfl, fun _ hv' => by simp [hv] at hv'⟩
    · exact unchanged rfl
  · obtain hv | ⟨rfl, hv, hres, mode, rfl⟩ := exec_next_cfgValid hx (by rw [runs_insts hrun]; exact hk) hk'
    · exact unchanged hv
    · obtain ⟨bs, a, es, rest, hp, hd⟩ := runs_init hrun
      exact ⟨fun hv' => by simp [hv] at hv', fun _ _ => ⟨hres, bs, a, es, _, mode, rest, hp, hd, rfl⟩⟩

end Sys2Proof.Machine
end

section
/-! The invariant of the system is kept by every step (10_state.md R20, R24; 30_encoding.md R68; 43_stream_dispatcher.md
R171; 60_exceptions.md R233). -/

namespace Sys2Proof.Machine

/-- The invariant speaks of the parameters and the cores only. -/
theorem inv_congr {s t : State} (hs : s.Inv) (hp : t.params = s.params) (hi : t.insts = s.insts) : t.Inv :=
  ⟨by rw [hp]; exact hs.params, by rw [hi]; exact hs.someInst, by rw [hp, hi]; exact hs.each,
    by rw [hi]; exact hs.distinct⟩

/-- An instruction keeps the invariant: what it makes of its core does, and a channel it newly configures is free. -/
theorem exec_inv {i : Instr} {s t : State} (hs : s.Inv) (hw : i.wf s.params.chW = true) (hx : exec i s = .next t) :
    t.Inv := by
  obtain ⟨k, k', ⟨hk, hr⟩, rfl, hch⟩ := exec_next hx
  have hk' : Instance.Inv s.params k' := change_inv (hs.each k (List.mem_of_getElem? hk)) hr hw hch
  refine inv_set hs hk hk' ?_ rfl rfl
  obtain ⟨hv, hc⟩ | ⟨ch, mode, -, -, rfl, hfree⟩ := change_config hch
  · exact .inl fun h => ⟨hv ▸ h, hc⟩
  · rw [initDone_fields]
    exact .inr (channelTaken_eq_false.mp hfree)

theorem acceptEvent_inv {s t : State} {n : Nat} (hs : s.Inv) (h : acceptEvent n s = .next t) : t.Inv := by
  obtain ⟨k, hk, ⟨-, rfl⟩ | ⟨r, -, rfl⟩⟩ := acceptEvent_next h
  · exact hs
  · have hk' := completeDelivery_inv r (hs.each k (List.mem_of_getElem? hk))
    exact inv_set hs hk hk' (.inl fun hv => ⟨hv, rfl⟩) rfl rfl

theorem resetEvent_inv {s t : State} {n : Nat} (hs : s.Inv) (h : resetEvent n s = .next t) : t.Inv := by
  obtain ⟨k, hk, -, rfl⟩ := resetEvent_next h
  exact inv_set hs hk (reset_instance_inv s.params) (.inl fun hv => by cases hv) rfl rfl

/-- Settles O3, by what the step took from the host; an operation it ran is well formed, so its channel fits. -/
theorem stepKeepsInvariant : Obligations.StepKeepsInvariant := by
  intro s t hs hstep
  obtain ⟨-, rfl⟩ | ⟨n, es, -, h⟩ | ⟨n, es, -, h⟩ | ⟨i, s', hrun, hx⟩ := step_next_runs hstep
  · exact hs
  · exact acceptEvent_inv (s := { s with pending := es }) (inv_congr hs rfl rfl) h
  · exact resetEvent_inv (s := { s with pending := es }) (inv_congr hs rfl rfl) h
  · have hp := runs_params hrun
    exact exec_inv (inv_congr hs hp (runs_insts hrun)) (hp ▸ runs_wf hrun) hx

end Sys2Proof.Machine
end

section
/-! Systems the outside cannot tell apart take the same step (10_state.md R20, R33, R34). -/

namespace Sys2Proof.Machine

/-! ### INIT and NOTIFY on cores that differ only in unread state -/

theorem sameOutside_initFailed {k j : Instance} (h : Instance.SameOutside k j) (p : Params) (ch : Channel) (sink : Bool)
    (mode : Mode) (a : Answers) :
    Instance.SameOutside (initFailed p ch sink mode a k) (initFailed p ch sink mode a j) := by
  obtain ⟨o1, o2, o3, o4⟩ := observables_eq h.observables
  rw [initFailed_fields, initFailed_fields]
  exact ⟨h.cfgValid, h.cfgChannel, h.bufLen, h.bufBytes, h.recOut, by simp [Instance.observables, o1, o2, o3, o4]⟩

/-- INIT sets the channel and clears the buffer, so nothing unread is left of either. -/
theorem sameOutside_initDone {k j : Instance} (h : Instance.SameOutside k j) (p : Params) (ch : Channel) (mode : Mode) :
    Instance.SameOutside (initDone p ch mode k) (initDone p ch mode j) := by
  obtain ⟨o1, o2, o3, o4⟩ := observables_eq h.observables
  rw [initDone_fields, initDone_fields]
  exact ⟨rfl, fun _ => rfl, rfl, by rw [bufBytes_of_empty rfl, bufBytes_of_empty rfl], h.recOut,
    by simp [Instance.observables, o1, o2, o3, o4]⟩

section
variable {s t : State} (h : State.SameOutside s t)
include h

/-- NOTIFY on such cores; the channels it is presented on need agree only where the core is configured, since an
unconfigured one ignores it (R162). -/
theorem outcomesMatch_receive {k j : Instance} (hkj : Instance.SameOutside k j) {ch ch' : Channel}
    (hch : k.cfgValid = true → ch = ch') (data : List Byte) :
    outcomesMatch (receive ch data s k) (receive ch' data t j) := by
  have put : ∀ st, State.SameOutside (putInst s (reportStatus st k)) (putInst t (reportStatus st j)) :=
    fun st => sameOutside_putInst h (sameOutside_reportStatus hkj st)
  have hadd := sameOutside_appendData hkj data
  unfold receive
  rw [← hkj.cfgValid, ← h.params, ← hadd.bufBytes, ← h.answers]
  cases hv : k.cfgValid with
  | false => exact put _
  | true =>
    rw [← hch hv, ← hkj.cfgChannel hv]
    simp only [Bool.true_eq_false, if_false]
    split_ifs
    · exact put _
    · exact put _
    · rfl
    · cases bufBytes (appendData data k) with
      | none => rfl
      | some B => exact sameOutside_putInst h (sameOutside_dispatchBytes hadd B _)

theorem outcomesMatch_cmdTx (C : List Byte) : outcomesMatch (cmdTx C s) (cmdTx C t) :=
  outcomesMatch_onInst h fun _ _ hkj => by
    rw [← h.answers]
    exact sameOutside_putInst h (sameOutside_cmdTxInst hkj C _)

theorem outcomesMatch_execInit (ch : Channel) (sink : Bool) (mode : Mode) :
    outcomesMatch (execInit ch sink mode s) (execInit ch sink mode t) :=
  outcomesMatch_onInst h fun k j hkj => by
    rw [← hkj.cfgValid, ← h.params, ← h.answers, ← channelTaken_sameOutside h]
    cases k.cfgValid with
    | true => rfl
    | false =>
      cases initError s.params sink s.answers with
      | some e => exact sameOutside_putInst h (sameOutside_initFailed hkj _ _ _ _ _)
      | none =>
        cases channelTaken s ch with
        | true => rfl
        | false => exact sameOutside_putInst h (sameOutside_initDone hkj _ _ _)

/-- Every instruction does the same on systems the outside cannot tell apart. -/
theorem outcomesMatch_exec (i : Instr) : outcomesMatch (exec i s) (exec i t) := by
  cases i with
  | init ch sink mode => exact outcomesMatch_execInit h ch sink mode
  | notify ch data => exact outcomesMatch_onInst h fun _ _ hkj => outcomesMatch_receive h hkj (fun _ => rfl) data
  | dataFrame f => exact outcomesMatch_onInst h fun _ _ hkj => outcomesMatch_receive h hkj hkj.cfgChannel _
  | _ => exact outcomesMatch_cmdTx h _

/-! ### The host's events -/

theorem sameOutside_pending (es : List Event) :
    State.SameOutside { s with pending := es } { t with pending := es } :=
  ⟨h.params, rfl, h.cur, h.answers, h.refusalMark, h.insts⟩

theorem sameOutside_fetched (n : Nat) (a : Answers) (es : List Event) :
    State.SameOutside (fetched n a es s) (fetched n a es t) :=
  ⟨h.params, rfl, rfl, rfl, h.refusalMark, h.insts⟩

theorem sameOutside_set {k j : Instance} (hkj : Instance.SameOutside k j) (n : Nat) :
    State.SameOutside { s with insts := s.insts.set n k } { t with insts := t.insts.set n j } :=
  ⟨h.params, h.pending, h.cur, h.answers, h.refusalMark, forall₂_set h.insts hkj n⟩

theorem outcomesMatch_acceptEvent (n : Nat) : outcomesMatch (acceptEvent n s) (acceptEvent n t) := by
  unfold acceptEvent
  obtain ⟨hk, hj⟩ | ⟨k, j, hk, hj, hkj⟩ := forall₂_get h.insts n
  · rw [hk, hj]; rfl
  · rw [hk, hj]
    simp only [← hkj.recOut]
    cases k.recOut with
    | none => exact h
    | some r => exact sameOutside_set h (sameOutside_completeDelivery hkj r) n

theorem outcomesMatch_resetEvent (n : Nat) : outcomesMatch (resetEvent n s) (resetEvent n t) := by
  unfold resetEvent
  obtain ⟨hk, hj⟩ | ⟨k, j, hk, hj, hkj⟩ := forall₂_get h.insts n
  · rw [hk, hj]; rfl
  · rw [hk, hj]
    simp only [busy, ← hkj.recOut]
    by_cases hb : k.recOut.isSome = true
    · simp only [hb, if_true]; rfl
    · simp only [hb]; exact sameOutside_set h (sameOutside_refl _) n

end

/-- Settles O4, by the host's next event, which is the same in both systems. -/
theorem hiddenStateIsNeverObserved : Obligations.HiddenStateIsNeverObserved := by
  intro s t h
  cases hm : s.refusalMark with
  | some r =>
    rw [step_marked hm, step_marked (h.refusalMark ▸ hm)]
    rfl
  | none =>
    have hm' : t.refusalMark = none := h.refusalMark ▸ hm
    cases hp : s.pending with
    | nil =>
      rw [step_idle hm hp, step_idle hm' (h.pending ▸ hp)]
      exact h
    | cons e es =>
      have hp' : t.pending = e :: es := h.pending ▸ hp
      cases e with
      | accept n =>
        rw [step_accept hm hp, step_accept hm' hp']
        exact outcomesMatch_acceptEvent (sameOutside_pending h es) n
      | reset n =>
        rw [step_reset hm hp, step_reset hm' hp']
        exact outcomesMatch_resetEvent (sameOutside_pending h es) n
      | emit n c a =>
        rw [step_emit hm hp, step_emit hm' hp']
        exact outcomesMatch_exec (sameOutside_fetched h n a es) _
      | arrive n f a =>
        rw [step_arrive hm hp, step_arrive hm' hp']
        exact outcomesMatch_exec (sameOutside_fetched h n a es) _
      | present n bs a =>
        cases hd : decode s.params.chW .htx bs with
        | error e =>
          rw [step_present_illegal hm hp hd, step_present_illegal hm' hp' (h.params ▸ hd)]
          rfl
        | ok r =>
          rw [step_present hm hp hd, step_present hm' hp' (h.params ▸ hd)]
          exact outcomesMatch_exec (sameOutside_fetched h n a _) _

end Sys2Proof.Machine
end

section
/-! What an append leaves in the buffer, the capacity of a buffer, and the whole dispatch cycle (20_memory.md R41, R52;
43_stream_dispatcher.md R161). -/

namespace Sys2Proof.Machine

open Sys2Proof.Statements (Cycle CycleFrame)

/-! ### The append (R41) -/

theorem read_appendData_payload (k : Instance) {data : List Byte} {j : Nat} (hj : j < data.length) :
    Memory.read (appendData data k).buf (k.bufLen + j) = data[j]? := by
  rw [appendData_buf, read_append, if_pos (by omega), Nat.add_sub_cancel_left]

theorem read_appendData_other (k : Instance) {data : List Byte} {a : Nat}
    (ha : a < k.bufLen ∨ k.bufLen + data.length ≤ a) :
    Memory.read (appendData data k).buf a = Memory.read k.buf a := by
  rw [appendData_buf, read_append, if_neg (by omega)]

/-- Settles O16: what a read gives after the writes, at the payload's addresses and at the others. -/
theorem appendWritesPayloadInOrder : Obligations.AppendWritesPayloadInOrder := by
  intro k data
  refine ⟨fun _ => read_appendData_payload k, fun _ => read_appendData_other k, rfl, fun h0 => ?_⟩
  refine ⟨bufBytes_appendData_empty data h0, by simp [h0], fun j hj => ?_⟩
  simpa [h0] using read_appendData_payload k hj

/-! ### The capacity (R52) -/

theorem overCapacity_eq_true {p : Params} {n : Nat} : overCapacity p n = true ↔ ∃ c, p.bufCap = some c ∧ c < n := by
  unfold overCapacity
  cases p.bufCap <;> simp

/-- The capacity test is reached after configuration, channel and empty payload, and is the only one that refuses (R225). -/
theorem receive_eq_bufferCapacity {ch : Channel} {data : List Byte} {s : State} {k : Instance} :
    receive ch data s k = .refused .bufferCapacity ↔
      k.cfgValid = true ∧ ch = k.cfgChannel ∧ data ≠ [] ∧ overCapacity s.params data.length = true := by
  constructor
  · intro h
    unfold receive at h
    split_ifs at h with hv hc hd hcap
    · exact ⟨by simpa using hv, by simpa using hc, hd, hcap⟩
    · split at h <;> cases h
  · rintro ⟨hv, rfl, hd, hcap⟩
    simp [receive, hv, hd, hcap]

/-- Settles O40: the capacity test is the one that refuses, and an unbounded buffer passes it. -/
theorem notifyBeyondCapacityRefused : Obligations.NotifyBeyondCapacityRefused := by
  constructor
  · intro s k data c hr hv hcap hlen
    have hd : data ≠ [] := List.ne_nil_of_length_pos (by omega)
    rw [exec_receives hr (.notify _ data)]
    exact receive_eq_bufferCapacity.mpr ⟨hv, rfl, hd, overCapacity_eq_true.mpr ⟨c, hcap, hlen⟩⟩
  · intro s ch data hcap h
    obtain h | ⟨k, h⟩ := onInst_refused h
    · cases h
    · obtain ⟨-, -, -, hover⟩ := receive_eq_bufferCapacity.mp h
      obtain ⟨c, hc, -⟩ := overCapacity_eq_true.mp hover
      rw [hcap] at hc
      cases hc

/-! ### The dispatch cycle (R161) -/

theorem cycle_overCapacity {s : State} {k : Instance} {data : List Byte} (h : Cycle s k data) :
    overCapacity s.params data.length = false := by
  rw [← Bool.not_eq_true, overCapacity_eq_true]
  rintro ⟨c, hc, hlt⟩
  exact absurd (h.fits c hc) (by omega)

/-- A NOTIFY that can be read is dispatched: located, validated, decoded, delivered (R161). -/
theorem exec_notify_cycle {s : State} {k : Instance} {data : List Byte} (h : Cycle s k data) :
    exec (.notify k.cfgChannel data) s =
      .next (putInst s (dispatchBytes data s.answers.accepts (appendData data k))) := by
  rw [exec_receives h.ready (.notify _ data), receive_dispatch h.configured h.nonempty (cycle_overCapacity h) h.empty]

/-- What is dispatched after the append does not matter for what a cycle leaves alone (R200). -/
theorem cycleFrame_dispatchBytes {k : Instance} (h0 : k.bufLen = 0) (data B : List Byte) (acc : Bool) :
    CycleFrame k (dispatchBytes B acc (appendData data k)) data := by
  obtain ⟨hv, hc, hbuf, htx, hres⟩ := dispatchBytes_frame B acc (appendData data k)
  refine ⟨hv, hc, htx, hres, fun j hj => ?_, fun a ha => ?_⟩ <;> rw [hbuf]
  · simpa [h0] using read_appendData_payload k hj
  · exact read_appendData_other k (.inr (by omega))

theorem dispatchBytes_not_found {B : List Byte} (h : locate B = none) (acc : Bool) (k : Instance) :
    dispatchBytes B acc k = reportStatus .framingError (clearBuf k) := by
  simp [dispatchBytes, h]

/-- A notification in which LOCATE finds nothing is a framing error and leaves nothing behind (R166). -/
theorem exec_notify_framingError {s : State} {k : Instance} {data : List Byte} (h : Cycle s k data)
    (hl : locate data = none) :
    ∃ k', exec (.notify k.cfgChannel data) s = .next (putInst s k') ∧ k'.bufLen = 0 ∧ k'.recOut = none ∧
      k'.deliveries = k.deliveries ∧ k'.statuses = k.statuses ++ [.framingError] ∧ CycleFrame k k' data := by
  refine ⟨_, exec_notify_cycle h, ?_⟩
  have hframe := cycleFrame_dispatchBytes h.empty data data s.answers.accepts
  rw [dispatchBytes_not_found hl] at hframe ⊢
  exact ⟨rfl, h.ready.2, rfl, rfl, hframe⟩

/-- Fewer than 32 bytes hold no frame (R103, R105 (a)). -/
theorem locate_eq_none_of_length_lt {B : List Byte} (h : B.length < 32) : locate B = none :=
  locate_eq_none.mpr fun q ⟨hq, _⟩ => absurd hq (by omega)

end Sys2Proof.Machine
end

section
/-! Command frames as bytes: in no encoding that the core receives are they an instruction (20_memory.md R44; 30_encoding.md
R73; 43_stream_dispatcher.md R166). -/

namespace Sys2Proof

open Machine

/-! ### What the host's decoder accepts -/

theorem decodeInit_format {chW : Nat} {h : Byte} {body rest : List Byte} {i : Instr}
    (hd : decodeInit chW h body = .ok (i, rest)) : i.format = .htx := by
  unfold decodeInit at hd
  split at hd
  · split_ifs at hd
    cases hd
    rfl
  · cases hd

theorem decodeNotify_format {chW : Nat} {body rest : List Byte} {i : Instr}
    (hd : decodeNotify chW body = .ok (i, rest)) : i.format = .htx := by
  unfold decodeNotify at hd
  split at hd
  · split_ifs at hd
    cases hd
    rfl
  · cases hd

/-- Whatever the host's decoder accepts is an operation of the table of R70. -/
theorem decodeHost_format {chW : Nat} {bs rest : List Byte} {i : Instr}
    (hd : decodeHost chW bs = .ok (i, rest)) : i.format = .htx := by
  unfold decodeHost at hd
  split at hd
  · cases hd
  · split at hd
    · cases hd
    · split at hd
      · exact decodeInit_format hd
      · split_ifs at hd
        exact decodeNotify_format hd
      · split_ifs at hd
        cases hd
        rfl
      · rw [decodePlain_eq_ok hd]; rfl
      · rw [decodePlain_eq_ok hd]; rfl
      · rw [decodePlain_eq_ok hd]; rfl
      · cases hd

theorem command_eq_none_of_htx {i : Instr} (h : i.format = .htx) : i.command = none := by
  cases i with
  | cmdSetPassive | cmdSetActive | cmdRequestRead | cmdSleep | cmdWakeup => cases h
  | _ => rfl

/-! ### The bytes of a command frame -/

theorem commandFrame_length : ∀ {C : List Byte}, C ∈ commandFrames → C.length = cmdLen := by decide

theorem commandFrame_head : ∀ {C : List Byte}, C ∈ commandFrames → C.head? = some mark0 := by decide

/-- The marker's first byte is no host header: its reserved bits are not 0 (R61, R73). -/
theorem decodeHost_mark0 (chW : Nat) (body : List Byte) : decodeHost chW (mark0 :: body) = .error .reservedBits := rfl

theorem decodeHost_commandFrame {C : List Byte} (hC : C ∈ commandFrames) (chW : Nat) (rest : List Byte) :
    decodeHost chW (C ++ rest) = .error .reservedBits := by
  obtain ⟨tail, rfl⟩ := List.head?_eq_some_iff.mp (commandFrame_head hC)
  exact decodeHost_mark0 chW (tail ++ rest)

/-- A command frame is shorter than a data frame (R60, R66). -/
theorem decodeSerial_commandFrame {C : List Byte} (hC : C ∈ commandFrames) : decodeSerial C = .error .notADataFrame :=
  if_neg fun ⟨hlen, _⟩ => absurd (commandFrame_length hC ▸ hlen) (by decide)

theorem locate_commandFrame {C : List Byte} (hC : C ∈ commandFrames) : locate C = none :=
  locate_eq_none_of_length_lt (by rw [commandFrame_length hC]; decide)

/-- Settles O57: the marker's first byte is an illegal header, and seven bytes are too few for a data frame. -/
theorem commandFramesAreNeverReceived : Obligations.CommandFramesAreNeverReceived := by
  refine ⟨fun chW bs rest i hd => ?_, fun s n C rest a es hC hm hp => ?_, fun chW C hC => ?_, fun s k C hC hcyc => ?_⟩
  · exact command_eq_none_of_htx (decodeHost_format hd)
  · exact step_present_illegal hm hp (decodeHost_commandFrame hC _ rest)
  · exact decodeSerial_commandFrame hC
  · exact exec_notify_framingError hcyc (locate_commandFrame hC)

end Sys2Proof
end

section
/-! Operations on different instances commute (20_memory.md R56; 10_state.md R32): all that one operation sees of another
core is whether a channel is taken (60_exceptions.md R233). -/

namespace Sys2Proof.Machine

/-! ### Channels -/

@[simp] theorem channelTaken_fetched (n : Nat) (a : Answers) (es : List Event) (s : State) (ch : Channel) :
    channelTaken (fetched n a es s) ch = channelTaken s ch := rfl

/-- A configured core stays so, on its channel: only a reset clears a configuration (R21). -/
theorem change_keeps_channel {s : State} {k k' : Instance} {i : Instr} (h : Change s k i k') (hv : k.cfgValid = true) :
    k'.cfgValid = true ∧ k'.cfgChannel = k.cfgChannel := by
  obtain ⟨hv', hc⟩ | ⟨_, _, -, hv', -⟩ := change_config h
  · exact ⟨hv'.trans hv, hc⟩
  · simp [hv] at hv'

/-- A channel is free before an operation where it is free after it. -/
theorem channelTaken_eq_false_of_exec {i : Instr} {s t : State} {ch : Channel} (hx : exec i s = .next t)
    (h : channelTaken t ch = false) : channelTaken s ch = false := by
  obtain ⟨k, k', hr, rfl, hch⟩ := exec_next hx
  rw [channelTaken_eq_false] at h ⊢
  intro x hmem hv
  obtain ⟨n, hn⟩ := List.mem_iff_getElem?.mp hmem
  rcases eq_or_ne n s.cur with rfl | hne
  · obtain rfl : k = x := Option.some.inj (hr.1.symm.trans hn)
    obtain ⟨hv', hc⟩ := change_keeps_channel hch hv
    exact hc ▸ h k' (List.mem_of_getElem? (putInst_current k' hr.1)) hv'
  · exact h x (List.mem_of_getElem? ((putInst_other s k' hne).trans hn)) hv

/-- The channel a core is newly configured for was free (R233). -/
theorem change_configures_free {s : State} {k k' : Instance} {i : Instr} (h : Change s k i k')
    (hv : k.cfgValid = false) (hv' : k'.cfgValid = true) : channelTaken s k'.cfgChannel = false := by
  obtain ⟨e, -⟩ | ⟨ch, mode, -, -, rfl, hfree⟩ := change_config h
  · simp [e, hv] at hv'
  · rwa [initDone_fields]

/-- A core that an operation leaves configured shares no channel it did not share before (R233). -/
theorem change_channel_ne {s : State} {k k' x : Instance} {i : Instr} (h : Change s k i k') (hx : x ∈ s.insts)
    (hxv : x.cfgValid = true) (hk : k.cfgValid = true → k.cfgChannel ≠ x.cfgChannel) (hv' : k'.cfgValid = true) :
    k'.cfgChannel ≠ x.cfgChannel := by
  cases hv : k.cfgValid with
  | true => exact (change_keeps_channel h hv).2 ▸ hk hv
  | false => exact Ne.symm (channelTaken_eq_false.mp (change_configures_free h hv hv') x hx hxv)

/-- Of the rest of the system a change depends on the parameters, on the draws, and on the channel it newly configures being
free. -/
theorem change_congr {s t : State} {k k' : Instance} {i : Instr} (h : Change s k i k') (hp : t.params = s.params)
    (ha : t.answers = s.answers)
    (hfree : k.cfgValid = false → k'.cfgValid = true → channelTaken t k'.cfgChannel = false) : Change t k i k' := by
  cases h with
  | ignored st hi hst => exact .ignored st hi hst
  | dispatched B hi hv hc hd hcap hB => rw [← ha]; exact .dispatched B hi hv hc hd (hp ▸ hcap) hB
  | initFailed ch sink mode hv he => rw [← hp, ← ha] at he ⊢; exact .initFailed ch sink mode hv he
  | initDone ch sink mode hv he ht =>
    rw [initDone_fields] at hfree
    rw [← hp, ← ha] at he
    rw [← hp]
    exact .initDone ch sink mode hv he (hfree hv rfl)
  | command C hi => rw [← ha]; exact .command C hi

/-! ### The other order -/

section
variable {s t : State} {k k' l l' : Instance} {i j : Instr} {m n : Nat} {a b : Answers} {es : List Event}

/-- What the second operation does, it does before the first too: a channel it found free was free already. -/
theorem change_before_exec (hi : exec i (fetched m a es s) = .next t) (hj : Change (fetched n b es t) l j l') :
    Change (fetched n b es s) l j l' := by
  obtain ⟨_, _, -, ht, -⟩ := exec_next hi
  refine change_congr hj (by rw [ht]; rfl) rfl fun hv hv' => ?_
  have hfree := change_configures_free hj hv hv'
  rw [channelTaken_fetched] at hfree
  simpa using channelTaken_eq_false_of_exec hi hfree

/-- What the first operation does, it does after the second too: the channel it configures was free, and the second, which
ran when it was taken, did not configure it. -/
theorem change_after_exec (hi : Change (fetched m a es s) k i k') (hl : l ∈ s.insts) (hk' : k' ∈ t.insts)
    (hj : Change (fetched n b es t) l j l') :
    Change (fetched m a es (putInst (fetched n b es s) l')) k i k' := by
  refine change_congr hi rfl rfl fun hv hv' => channelTaken_eq_false.mpr fun x hx hxv => ?_
  have hfree := channelTaken_eq_false.mp (change_configures_free hi hv hv')
  obtain rfl | hx := mem_putInst hx
  · exact change_channel_ne hj hk' hv' (hfree l hl) hxv
  · exact hfree x hx hxv

end

/-- Settles O5: each operation makes of its own core what it made of it in the first order, and values put at two places
commute. -/
theorem operationsOnDifferentInstancesCommute : Obligations.OperationsOnDifferentInstancesCommute := by
  intro s t u i j m n a b es hmn hi hj
  obtain ⟨k, k', hkr, rfl, hki⟩ := exec_next hi
  obtain ⟨l, l', ⟨hl, hlr⟩, rfl, hlj⟩ := exec_next hj
  have hk' := List.mem_of_getElem? (putInst_current k' hkr.1)
  have hl : s.insts[n]? = some l := (putInst_other (fetched m a es s) k' hmn.symm).symm.trans hl
  have hk : (s.insts.set n l')[m]? = some k := (List.getElem?_set_ne hmn.symm).trans hkr.1
  have hj' := exec_of_change ⟨hl, hlr⟩ (change_before_exec hi hlj)
  have hi' := exec_of_change ⟨hk, hkr.2⟩ (change_after_exec hki (List.mem_of_getElem? hl) hk' hlj)
  exact ⟨_, _, hj', hi', List.set_comm _ _ hmn.symm⟩

end Sys2Proof.Machine
end

section
/-! The command frames and that nothing else is transmitted (30_encoding.md R65 to R68). -/

namespace Sys2Proof

open Machine

theorem commandFrame_marker : ∀ {C : List Byte}, C ∈ commandFrames → byteAt C 0 = mark0 ∧ byteAt C 1 = mark1 := by
  decide

/-- The checksum field of a command frame is the sum of the five bytes before it (R66). -/
theorem commandFrame_checksum : ∀ {C : List Byte}, C ∈ commandFrames →
    (cmdChecksum C).toNat = (byteAt C 0).toNat + (byteAt C 1).toNat + (byteAt C 2).toNat + (byteAt C 3).toNat +
      (byteAt C 4).toNat := by
  decide

/-- Settles O34: the bytes and the fields by computing the table, the rest from the facts about each command frame. -/
theorem commandFramesMatchTable : Obligations.CommandFramesMatchTable := by
  refine ⟨rfl, rfl, fun C hC => ?_⟩
  obtain ⟨h0, h1⟩ := commandFrame_marker hC
  exact ⟨commandFrame_length hC, h0, h1, commandFrame_checksum hC⟩

/-- Settles O29: what `Change` adds to the transmit trace is nothing or one command frame, and O34 lists the frames. -/
theorem onlyTheFiveFramesAreEmitted : Obligations.OnlyTheFiveFramesAreEmitted := by
  intro i s t k k' hready hexec hk'
  obtain ⟨-, hchange⟩ := exec_next_current hready hexec hk'
  obtain ⟨htable, -⟩ := commandFramesMatchTable
  obtain ⟨ts, htransmits, rfl | ⟨ch, C, rfl, hC⟩⟩ := change_transmits hchange
  · exact .inl (by rw [htransmits, List.append_nil])
  · exact .inr ⟨ch, C, htransmits, htable ▸ hC⟩

end Sys2Proof
end

section
/-! The properties of the Frame Locator (40_frame_locator.md R104, R107, R109): each is a fact about the least qualifying
marker, which `locate_eq_some` says LOCATE finds. -/

namespace Sys2Proof.Machine

open Sys2Proof.Statements (MarkerAt)

/-- `Qualifies` in the statements' words. -/
theorem qualifies_iff {B : List Byte} {q : Nat} : Qualifies B q ↔ q + 32 ≤ B.length ∧ MarkerAt B q := Iff.rfl

/-- No qualifying marker stands before the position found (R104). -/
theorem locate_le_of_qualifies {B : List Byte} {p q : Nat} (hp : locate B = some p) (hq : Qualifies B q) : p ≤ q :=
  Nat.le_of_not_lt fun hlt => (locate_eq_some.mp hp).2 q hlt hq

/-- A qualifying marker is found, or an earlier one is (R109). -/
theorem exists_locate_le_of_qualifies {B : List Byte} {q : Nat} (hq : Qualifies B q) :
    ∃ p, p ≤ q ∧ locate B = some p := by
  cases hl : locate B with
  | none => exact absurd hq (locate_eq_none.mp hl q)
  | some p => exact ⟨p, locate_le_of_qualifies hl hq, rfl⟩

/-- Settles O7: that no earlier position qualifies and that every qualifying position comes later are the same. -/
theorem locateFindsLeastQualifyingMarker : Obligations.LocateFindsLeastQualifyingMarker := by
  refine fun B => ⟨fun p => ⟨fun hp => ?_, fun ⟨hp, hleast⟩ => ?_⟩, locate_eq_none⟩
  · exact ⟨(locate_eq_some.mp hp).1, fun q hlen hm => locate_le_of_qualifies hp (qualifies_iff.mpr ⟨hlen, hm⟩)⟩
  · exact locate_eq_some.mpr ⟨qualifies_iff.mpr hp, fun j hj ⟨hlen, hm⟩ => absurd (hleast j hlen hm) (Nat.not_le.mpr hj)⟩

/-- Settles O8: what qualifies is a marker, so it stands at the first marker or after it, where fewer bytes are left. -/
theorem locatorSourceProperties : Obligations.LocatorSourceProperties := by
  refine fun B => ⟨fun hno => ?_, fun q _ hfirst hshort => ?_, fun q hm hlen hfirst => ?_, fun q hm hlen => ?_⟩
  · exact locate_eq_none.mpr fun q ⟨_, hm⟩ => hno q hm
  · refine locate_eq_none.mpr fun j ⟨hlen, hm⟩ => ?_
    have hqj : q ≤ j := Nat.le_of_not_lt fun hlt => hfirst j hlt hm
    omega
  · exact locate_eq_some.mpr ⟨qualifies_iff.mpr ⟨hlen, hm⟩, fun j hj ⟨_, hmj⟩ => hfirst j hj hmj⟩
  · exact exists_locate_le_of_qualifies (qualifies_iff.mpr ⟨hlen, hm⟩)

/-- Settles O44: the marker pair qualifies at 0, since 34 bytes follow from it on. -/
theorem falseMarkerHidesFrame : Obligations.FalseMarkerHidesFrame := by
  intro F hF
  have hlen : 0 + 32 ≤ ([0x42#8, 0x4D#8] ++ F).length := by simp [hF]
  exact locate_eq_some.mpr ⟨qualifies_iff.mpr ⟨hlen, rfl, rfl⟩, fun j hj => absurd hj (Nat.not_lt_zero j)⟩

end Sys2Proof.Machine
end

section
/-! The properties of the Checksum Validator (41_checksum_validator.md R120 to R125): what CHECKSUM_OK compares, and what
changing a byte of a frame does to the two sides of the comparison. -/

namespace Sys2Proof.Machine

/-! ### Bytes of a frame -/

theorem byteAt_of_getElem? {F : List Byte} {k : Nat} {b : Byte} (h : F[k]? = some b) : byteAt F k = b := by
  simp [byteAt, List.getD, h]

theorem byteAt_take {F : List Byte} {k n : Nat} (h : k < n) : byteAt (F.take n) k = byteAt F k := by
  simp [byteAt, List.getD, h]

theorem byteAt_set_same {F : List Byte} {k : Nat} (v : Byte) (h : k < F.length) : byteAt (F.set k v) k = v := by
  simp [byteAt, List.getD, h]

theorem byteAt_set_of_ne (F : List Byte) {k j : Nat} (v : Byte) (h : k ≠ j) : byteAt (F.set k v) j = byteAt F j := by
  simp [byteAt, List.getD, h]

theorem set_byteAt_self (F : List Byte) (k : Nat) : F.set k (byteAt F k) = F := by
  by_cases h : k < F.length
  · simp [byteAt, List.getD, h]
  · exact List.set_eq_of_length_le (Nat.le_of_not_lt h)

/-! ### The sum (R120, R121) -/

/-- A sum of bytes by their offsets; an offset beyond the end adds nothing. -/
theorem byteSum_take (F : List Byte) (n : Nat) :
    byteSum (F.take n) = ((List.range n).map fun j => (byteAt F j).toNat).sum := by
  induction n with
  | zero => simp
  | succ n ih =>
    have hlast : byteSum F[n]?.toList = (byteAt F n).toNat := by cases h : F[n]? <;> simp [byteAt, List.getD, h]
    simp [List.take_add_one, byteSum_append, List.range_succ, ih, hlast]

theorem checksumSum_le (F : List Byte) : checksumSum F ≤ 7650 :=
  (byteSum_le _).trans (Nat.mul_le_mul_left 255 (List.length_take_le 30 F))

/-- A changed byte at 0 to 29 moves the sum by the difference (R125 (a)). -/
theorem checksumSum_set {F : List Byte} {j : Nat} (v : Byte) (hF : F.length = 32) (hj : j < 30) :
    checksumSum (F.set j v) + (byteAt F j).toNat = checksumSum F + v.toNat := by
  have := byteSum_set (bs := F.take 30) (k := j) v (by simp [hF, hj])
  rwa [← List.take_set, byteAt_take hj] at this

/-- The bytes of the checksum field are not summed (R123). -/
theorem checksumSum_set_field (F : List Byte) {j : Nat} (v : Byte) (hj : 30 ≤ j) :
    checksumSum (F.set j v) = checksumSum F := by
  rw [checksumSum, List.take_set_of_le hj, checksumSum]

/-- Bytes that start with the marker have at least its sum (R124). -/
theorem marker_le_checksumSum {F : List Byte} (h0 : byteAt F 0 = mark0) (h1 : byteAt F 1 = mark1) :
    0x8F ≤ checksumSum F := by
  have hpair : byteSum (F.take 2) = mark0.toNat + mark1.toNat := by simp [byteSum_take, List.range_succ, h0, h1]
  have hsplit : checksumSum F = byteSum (F.take 2) + byteSum ((F.drop 2).take 28) := by
    rw [← byteSum_append, ← List.take_add, checksumSum]
  calc 0x8F = mark0.toNat + mark1.toNat := rfl
    _ ≤ checksumSum F := by omega

/-! ### The comparison (R122) -/

theorem checksumField_toNat (F : List Byte) :
    (be16At F 30).toNat = 256 * (byteAt F 30).toNat + (byteAt F 31).toNat :=
  be16_toNat _ _

theorem checksumOk_iff {F : List Byte} :
    checksumOk F = true ↔ checksumSum F = 256 * (byteAt F 30).toNat + (byteAt F 31).toNat := by
  rw [checksumOk, decide_eq_true_iff, checksumField_toNat]

/-- A changed byte at 0 to 29 leaves the field as it was. -/
theorem checksumOk_set {F : List Byte} {j : Nat} (v : Byte) (hj : j < 30) :
    checksumOk (F.set j v) = true ↔ checksumSum (F.set j v) = 256 * (byteAt F 30).toNat + (byteAt F 31).toNat := by
  rw [checksumOk_iff, byteAt_set_of_ne F v (by omega), byteAt_set_of_ne F v (by omega)]

/-- A valid frame is valid with no other byte at an offset of 0 to 29 (R125 (a)). -/
theorem checksumOk_set_summed {F : List Byte} {j : Nat} (v : Byte) (hF : F.length = 32) (hok : checksumOk F = true)
    (hj : j < 30) : checksumOk (F.set j v) = true ↔ v = byteAt F j := by
  have hmoved := checksumSum_set v hF hj
  rw [checksumOk_set v hj, ← checksumOk_iff.mp hok, BitVec.toNat_eq]
  omega

/-- Two changes at 0 to 29 that cancel in the sum keep a valid frame valid (R125 (b)). -/
theorem checksumOk_set_cancelling {F : List Byte} {i j : Nat} {v w : Byte} (hF : F.length = 32)
    (hok : checksumOk F = true) (hi : i < 30) (hj : j < 30) (hij : i ≠ j)
    (hsum : v.toNat + w.toNat = (byteAt F i).toNat + (byteAt F j).toNat) :
    checksumOk ((F.set i v).set j w) = true := by
  have hfirst := checksumSum_set v hF hi
  have hsecond := checksumSum_set (F := F.set i v) w (by simp [hF]) hj
  rw [byteAt_set_of_ne F v hij] at hsecond
  rw [checksumOk_set w hj, byteAt_set_of_ne F v (by omega), byteAt_set_of_ne F v (by omega), ← checksumOk_iff.mp hok]
  omega

/-- A valid frame is valid with no other field (R125 (c)). -/
theorem checksumOk_set_field {F : List Byte} (v w : Byte) (hF : F.length = 32) (hok : checksumOk F = true) :
    checksumOk ((F.set 30 v).set 31 w) = true ↔ v = byteAt F 30 ∧ w = byteAt F 31 := by
  have hhi : byteAt ((F.set 30 v).set 31 w) 30 = v := by
    rw [byteAt_set_of_ne _ w (by decide), byteAt_set_same v (by omega)]
  have hlo : byteAt ((F.set 30 v).set 31 w) 31 = w := byteAt_set_same w (by simp [hF])
  rw [checksumOk_iff, hhi, hlo, checksumSum_set_field _ w (by decide), checksumSum_set_field _ v (by decide),
    checksumOk_iff.mp hok, ← be16_toNat, ← be16_toNat, ← BitVec.toNat_eq, be16_inj, eq_comm (a := v), eq_comm (a := w)]

/-- A valid frame is valid with no other high byte of its field (R125 (d)). -/
theorem checksumOk_set_high {F : List Byte} (v : Byte) (hF : F.length = 32) (hok : checksumOk F = true) :
    checksumOk (F.set 30 v) = true ↔ v = byteAt F 30 := by
  have hkeep : (F.set 30 v).set 31 (byteAt F 31) = F.set 30 v := by
    rw [← byteAt_set_of_ne F v (show 30 ≠ 31 by decide), set_byteAt_self]
  rw [← hkeep, checksumOk_set_field v _ hF hok, and_iff_left rfl]

/-- Settles O10: the model's sum is the sum by offsets, and the field is the number its two bytes spell. -/
theorem checksumIsExactSum : Obligations.ChecksumIsExactSum := by
  intro F _
  have hle := checksumSum_le F
  rw [← byteSum_take, ← checksumSum]
  exact ⟨checksumOk_iff, hle, by omega⟩

/-- Settles O11: a changed byte or field moves one side of the comparison only, two cancelling bytes move none. -/
theorem checksumCornerCases : Obligations.ChecksumCornerCases := by
  refine ⟨fun F hF hok => ?_, by decide, by decide⟩
  simp only [← Bool.not_eq_true]
  refine ⟨fun j v hj hv => ?_, fun i j v w => checksumOk_set_cancelling hF hok, fun v w hvw => ?_, fun hne => ?_, ?_⟩
  · rwa [checksumOk_set_summed v hF hok hj]
  · rwa [checksumOk_set_field v w hF hok]
  · rw [checksumOk_set_field _ _ hF hok]
    exact fun ⟨hswap, _⟩ => hne hswap.symm
  · rw [checksumOk_set_high _ hF hok]
    simp

/-- The frame LOCATE's position names starts with the marker (R104, R124). -/
theorem frameAt_marker {B : List Byte} {p : Nat} (h : locate B = some p) :
    byteAt (frameAt B p) 0 = mark0 ∧ byteAt (frameAt B p) 1 = mark1 := by
  obtain ⟨⟨-, hmark0, hmark1⟩, -⟩ := locate_eq_some.mp h
  rw [byteAt_frameAt (by decide), byteAt_frameAt (by decide)]
  exact ⟨byteAt_of_getElem? hmark0, byteAt_of_getElem? hmark1⟩

/-- Settles O12: 32 zero bytes are valid without the marker, and a valid frame's field lies where its sum does. -/
theorem checksumFieldRange : Obligations.ChecksumFieldRange := by
  refine ⟨⟨List.replicate 32 0#8, by decide⟩, fun B p => frameAt_marker, fun F _ h0 h1 => ?_⟩
  have hmin := marker_le_checksumSum h0 h1
  have hmax := checksumSum_le F
  refine ⟨hmin, hmax, fun hout => ?_⟩
  rw [checksumField_toNat] at hout
  rw [← Bool.not_eq_true, checksumOk_iff]
  omega

end Sys2Proof.Machine
end

section
/-! The properties of the Field Decoder (42_field_decoder.md R140 to R146): the big-endian pairs it reads, the fields of
a record side by side on `REC_OUT`, and the frame built from twelve values. -/

namespace Sys2Proof.Machine

/-! ### The fields read (R140, R141, R143) -/

/-- A field is the unsigned big-endian number at its offset (R141). -/
theorem be16At_toNat (F : List Byte) (o : Nat) :
    (be16At F o).toNat = 256 * (byteAt F o).toNat + (byteAt F (o + 1)).toNat :=
  be16_toNat _ _

theorem be16At_congr {F G : List Byte} {o : Nat} (hhi : byteAt F o = byteAt G o)
    (hlo : byteAt F (o + 1) = byteAt G (o + 1)) : be16At F o = be16At G o := by
  rw [be16At, hhi, hlo, be16At]

/-- Settles O37: the twelve rows of R140's table, each by the value of a big-endian pair. -/
theorem decoderFollowsOffsetTable : Obligations.DecoderFollowsOffsetTable := fun F _ =>
  ⟨be16At_toNat F 4, be16At_toNat F 6, be16At_toNat F 8, be16At_toNat F 10, be16At_toNat F 12, be16At_toNat F 14,
    be16At_toNat F 16, be16At_toNat F 18, be16At_toNat F 20, be16At_toNat F 22, be16At_toNat F 24, be16At_toNat F 26⟩

/-- Settles O38: the frames agree in every pair from 4 to 26, and the decoder reads no other. -/
theorem decoderReadsOnlyMeasurements : Obligations.DecoderReadsOnlyMeasurements := by
  intro F G hbytes
  have hpair : ∀ o, 4 ≤ o → o ≤ 26 → be16At F o = be16At G o := fun o hmin hmax =>
    be16At_congr (hbytes o hmin (by omega)) (hbytes (o + 1) (by omega) (by omega))
  simp (disch := decide) only [decodeRecord, hpair]

/-! ### The packed record (R145) -/

theorem packFields_lt (vs : List Half) : packFields vs < 2 ^ (16 * vs.length) := by
  induction vs with
  | nil => exact Nat.one_pos
  | cons v vs ih =>
    have hv := v.isLt
    rw [packFields, List.length_cons, Nat.mul_succ, Nat.pow_add]
    omega

/-- Field `j` is digit `j` of the packed number to base `2 ^ 16` (R145). -/
theorem packFields_digit {vs : List Half} {j : Nat} {v : Half} (h : vs[j]? = some v) :
    packFields vs / 2 ^ (16 * j) % 2 ^ 16 = v.toNat := by
  induction vs generalizing j with
  | nil => simp at h
  | cons w vs ih =>
    have hw := w.isLt
    rw [packFields]
    cases j with
    | zero =>
      obtain rfl : w = v := by simpa using h
      omega
    | succ j =>
      have hrest : (w.toNat + 2 ^ 16 * packFields vs) / 2 ^ 16 = packFields vs := by omega
      rw [Nat.mul_succ, Nat.add_comm (16 * j), Nat.pow_add, ← Nat.div_div_eq_div_mul, hrest]
      exact ih (by simpa using h)

/-- Settles O14: the bus is wide enough for the twelve fields, and bits 16 apart are digits to base `2 ^ 16`. -/
theorem recordOutPacking : Obligations.RecordOutPacking := by
  intro r j v hv
  have hfits : packFields (recordList r) < 2 ^ 192 := packFields_lt (recordList r)
  apply BitVec.eq_of_toNat_eq
  rw [BitVec.extractLsb'_toNat, recordPack, BitVec.toNat_ofNat, Nat.mod_eq_of_lt hfits, Nat.shiftRight_eq_div_pow,
    packFields_digit hv]

/-! ### The built frame (R74, R146) -/

/-- A frame is valid exactly when its checksum operand is the sum of its first 30 bytes (R120, R123). -/
theorem checksumOk_frameBytes {f : DataFrame} :
    checksumOk (frameBytes f) = true ↔ byteSum (frameBody f) = f.checksum.toNat := by
  rw [checksumOk, decide_eq_true_iff, checksumSum, frameBytes_take, frameBytes_checksum]

/-- The sum of 30 bytes fits the 16 bits of the checksum field (R121). -/
theorem byteSum_frameBody_lt (f : DataFrame) : byteSum (frameBody f) < 2 ^ 16 :=
  (byteSum_le _).trans_lt (by rw [frameBody_length]; decide)

/-- The bytes a built frame's checksum covers do not depend on that checksum (R74, R123). -/
theorem frameBody_buildFrame (r : Record) (len res : Half) :
    frameBody (buildFrame r len res) = frameBody { len := len, fields := r, res := res, checksum := 0#16 } := by
  simp only [frameBody, buildFrame]

/-- A frame built without an adjustment passes the validator (R146). -/
theorem checksumOk_buildFrame (r : Record) (len res : Half) :
    checksumOk (frameBytes (buildFrame r len res)) = true := by
  rw [checksumOk_frameBytes, frameBody_buildFrame, buildFrame, Nat.add_zero, BitVec.toNat_ofNat,
    Nat.mod_eq_of_lt (byteSum_frameBody_lt _)]

/-- Settles O13: what holds of the bytes of every frame, and the validity of a built one. -/
theorem builtFrameRoundTrips : Obligations.BuiltFrameRoundTrips := fun r len res =>
  ⟨frameBytes_length _, locate_frameBytes _, frameAt_frameBytes _, checksumOk_buildFrame r len res,
    frameBytes_record _⟩

end Sys2Proof.Machine
end

section
/-! The dispatch cycle rule by rule (43_stream_dispatcher.md R161 to R175): what a NOTIFY leaves for each thing that LOCATE
and CHECKSUM_OK can find in its payload. -/

namespace Sys2Proof.Machine

open Sys2Proof.Statements (Cycle CycleFrame MarkerAt)

/-! ### The frame that LOCATE finds (R167, R168) -/

/-- The frame at a position, as its 32 bytes (R43). -/
theorem frameAt_eq (B : List Byte) (p : Nat) : frameAt B p = (B.drop p).take 32 := rfl

theorem dispatchBytes_found {B : List Byte} {p : Nat} (h : locate B = some p) (acc : Bool) (k : Instance) :
    dispatchBytes B acc k = dispatchFrame (frameAt B p) acc k := by
  simp [dispatchBytes, h]

theorem dispatchFrame_invalid {F : List Byte} (h : checksumOk F = false) (acc : Bool) (k : Instance) :
    dispatchFrame F acc k = reportStatus .integrityError (clearBuf k) := by
  simp [dispatchFrame, h]

theorem dispatchFrame_accepted {F : List Byte} (h : checksumOk F = true) (k : Instance) :
    dispatchFrame F true k = completeDelivery (decodeRecord F) k := by
  simp [dispatchFrame, h, offer, completeDelivery, clearBuf, reportStatus]

/-- A notification in which LOCATE finds a frame runs the rest of the cycle on that frame (R161). -/
theorem exec_notify_found {s : State} {k : Instance} {data : List Byte} {p : Nat} (h : Cycle s k data)
    (hl : locate data = some p) :
    exec (.notify k.cfgChannel data) s =
      .next (putInst s (dispatchFrame (frameAt data p) s.answers.accepts (appendData data k))) := by
  rw [exec_notify_cycle h, dispatchBytes_found hl]

theorem cycleFrame_dispatchFrame {k : Instance} {data : List Byte} {p : Nat} (h0 : k.bufLen = 0)
    (hl : locate data = some p) (acc : Bool) :
    CycleFrame k (dispatchFrame (frameAt data p) acc (appendData data k)) data := by
  rw [← dispatchBytes_found hl]
  exact cycleFrame_dispatchBytes h0 data data acc

/-- Settles O17: with no frame located the cycle ends at once. -/
theorem framingErrorDiscardsBuffer : Obligations.FramingErrorDiscardsBuffer :=
  fun _ _ _ => exec_notify_framingError

/-- Settles O18: the located frame is validated, and no other position is tried. -/
theorem integrityErrorDiscardsBuffer : Obligations.IntegrityErrorDiscardsBuffer := by
  intro s k data p h hl hbad
  rw [← frameAt_eq] at hbad
  refine ⟨_, exec_notify_found h hl, ?_⟩
  have hframe := cycleFrame_dispatchFrame h.empty hl s.answers.accepts
  rw [dispatchFrame_invalid hbad] at hframe ⊢
  exact ⟨rfl, h.ready.2, rfl, rfl, hframe⟩

/-- Settles O19: the located frame is valid, so its record is offered, and the consumer takes it at once. -/
theorem validFrameIsDelivered : Obligations.ValidFrameIsDelivered := by
  intro s k data p h hl hok hacc
  rw [← frameAt_eq] at hok ⊢
  refine ⟨_, exec_notify_found h hl, ?_⟩
  have hframe := cycleFrame_dispatchFrame h.empty hl s.answers.accepts
  rw [hacc, dispatchFrame_accepted hok] at hframe ⊢
  exact ⟨rfl, rfl, rfl, rfl, hframe⟩

/-- Settles O24: a frame needs 32 bytes, so LOCATE finds none. -/
theorem shortNotificationNeverDelivers : Obligations.ShortNotificationNeverDelivers := by
  intro s k data h hshort
  obtain ⟨k', hx, hlen, hrec, hdel, hst, -⟩ := exec_notify_framingError h (locate_eq_none_of_length_lt hshort)
  exact ⟨k', hx, hlen, hrec, hdel, hst⟩

/-! ### Ignored notifications (R162, R163, R164) -/

/-- Settles O39: one status for each of the three reasons to ignore a NOTIFY. -/
theorem notifyIgnoresWhatIsNotItsOwn : Obligations.NotifyIgnoresWhatIsNotItsOwn := by
  intro s k ch data hready
  have hignored : ∀ {st}, Ignores k ch data st →
      exec (.notify ch data) s = .next (putInst s (reportStatus st k)) := fun h =>
    exec_of_change hready (.ignored _ (.notify ch data) h)
  exact ⟨fun hv => hignored (.unconfigured hv), fun hv hc => hignored (.channel hv hc),
    fun hv hc hd => hignored (.empty hv hc hd)⟩

/-! ### Every NOTIFY that goes on (R171, R173) -/

/-- What a NOTIFY makes of a core with an empty buffer: it ignores the payload, or dispatches it and no other bytes. -/
theorem exec_notify_next {s t : State} {k k' : Instance} {ch : Channel} {data : List Byte} (hready : s.Ready k)
    (h0 : k.bufLen = 0) (hx : exec (.notify ch data) s = .next t) (hk' : t.insts[t.cur]? = some k') :
    (∃ st, Ignores k ch data st ∧ k' = reportStatus st k) ∨
    (k.cfgValid = true ∧ ch = k.cfgChannel ∧ data ≠ [] ∧
      k' = dispatchBytes data s.answers.accepts (appendData data k)) := by
  obtain ⟨-, hchange⟩ := exec_next_current hready hx hk'
  cases hchange with
  | ignored st hi hst =>
    cases hi
    exact .inl ⟨st, hst, rfl⟩
  | dispatched B hi hv hc hd hcap hB =>
    cases hi
    obtain rfl : data = B := Option.some.inj ((bufBytes_appendData_empty data h0).symm.trans hB)
    exact .inr ⟨hv, hc, hd, rfl⟩
  | command C hi => cases hi

/-- Settles O22: the tests of NOTIFY are the table's conditions in the table's order; a NOTIFY that still waits for its
consumer is the one case with no status, and it has not completed. -/
theorem notifyStatusTable : Obligations.NotifyStatusTable := by
  refine ⟨fun s t k k' ch data hready h0 hx hk' hdone => ?_, fun s k ch data hready => ?_, rfl⟩
  · obtain ⟨st, hst, rfl⟩ | ⟨hv, hc, hd, rfl⟩ := exec_notify_next hready h0 hx hk'
    · refine ⟨rfl, ?_⟩
      cases hst with
      | unconfigured hv => simp [hv]
      | channel hv hc => simp [hv, hc]
      | empty hv hc hd => simp [hv, hc, hd]
    · have hframe := cycleFrame_dispatchBytes h0 data data s.answers.accepts
      refine ⟨hframe.results, ?_⟩
      obtain ⟨hl, e⟩ | ⟨p, hl, hbad, e⟩ | ⟨p, hl, hok, -, e⟩ | ⟨p, -, -, -, e⟩ :=
        dispatchBytes_cases data s.answers.accepts (appendData data k) <;> rw [e] at hdone ⊢
      · simp [hv, hc, hd, hl]
      · rw [frameAt_eq] at hbad
        simp [hv, hc, hd, hl, hbad]
      · rw [frameAt_eq] at hok
        simp [hv, hc, hd, hl, hok]
      · cases hdone
  · rw [exec_receives hready (.notify ch data), receive_eq_bufferCapacity, overCapacity_eq_true]

/-- Settles O23: only a located and valid frame gives a record, and LOCATE's position has the marker and 32 bytes. -/
theorem atMostOneRecordFromOwnPayload : Obligations.AtMostOneRecordFromOwnPayload := by
  intro s t k k' ch data hready h0 hx hk'
  obtain ⟨st, -, rfl⟩ | ⟨-, -, -, rfl⟩ := exec_notify_next hready h0 hx hk'
  · exact .inl ⟨rfl, hready.2⟩
  · obtain ⟨-, e⟩ | ⟨p, -, -, e⟩ | ⟨p, hl, hok, -, e⟩ | ⟨p, hl, hok, -, e⟩ :=
      dispatchBytes_cases data s.answers.accepts (appendData data k) <;> rw [e]
    · exact .inl ⟨rfl, hready.2⟩
    · exact .inl ⟨rfl, hready.2⟩
    · obtain ⟨⟨hlen, hmark⟩, -⟩ := locate_eq_some.mp hl
      exact .inr ⟨p, hlen, hmark, hok, .inl ⟨rfl, rfl⟩⟩
    · obtain ⟨⟨hlen, hmark⟩, -⟩ := locate_eq_some.mp hl
      exact .inr ⟨p, hlen, hmark, hok, .inr ⟨rfl, rfl⟩⟩

/-! ### The bytes after the frame (R108, R169) -/

/-- Whether a position up to `p` qualifies depends only on the bytes up to the end of the frame at `p`. -/
theorem qualifies_take_append {B : List Byte} {p q : Nat} (tail : List Byte) (hp : p + 32 ≤ B.length) (hq : q ≤ p) :
    Qualifies (B.take (p + 32) ++ tail) q ↔ Qualifies B q := by
  have hget : ∀ j < p + 32, (B.take (p + 32) ++ tail)[j]? = B[j]? := fun j hj => by
    rw [List.getElem?_append_left (by rw [List.length_take]; omega), List.getElem?_take_of_lt hj]
  have hlen : q + 32 ≤ (B.take (p + 32) ++ tail).length ↔ q + 32 ≤ B.length := by
    rw [List.length_append, List.length_take]
    omega
  rw [Qualifies, hget q (by omega), hget (q + 1) (by omega), hlen]

/-- The position found depends only on the bytes up to the end of the frame (R108). -/
theorem locate_take_append {B : List Byte} {p : Nat} (tail : List Byte) (h : locate B = some p) :
    locate (B.take (p + 32) ++ tail) = some p := by
  obtain ⟨hp, hleast⟩ := locate_eq_some.mp h
  refine locate_eq_some.mpr ⟨(qualifies_take_append tail hp.1 le_rfl).mpr hp, fun j hj => ?_⟩
  rw [qualifies_take_append tail hp.1 hj.le]
  exact hleast j hj

theorem frameAt_take_append {B : List Byte} {p : Nat} (tail : List Byte) (hp : p + 32 ≤ B.length) :
    frameAt (B.take (p + 32) ++ tail) p = frameAt B p := by
  have hend : p ≤ (B.take (p + 32)).length := by
    rw [List.length_take]
    omega
  rw [frameAt_eq, List.drop_append_of_le_length hend, List.drop_take, Nat.add_sub_cancel_left, ← frameAt_eq,
    List.take_left' (frameAt_length hp)]

/-- What is shown and offered for a frame depends on the frame, not on the bytes it was appended with. -/
theorem dispatchFrame_appendData_shown (F data data' : List Byte) (acc : Bool) (k : Instance) :
    (dispatchFrame F acc (appendData data k)).observables = (dispatchFrame F acc (appendData data' k)).observables ∧
    (dispatchFrame F acc (appendData data k)).recOut = (dispatchFrame F acc (appendData data' k)).recOut := by
  unfold dispatchFrame
  split
  · cases acc with
    | true => exact ⟨rfl, rfl⟩
    | false => exact ⟨rfl, rfl⟩
  · exact ⟨rfl, rfl⟩

/-- Settles O25: LOCATE finds the same position in both payloads, and there the same frame. -/
theorem bytesAfterFrameDoNotMatter : Obligations.BytesAfterFrameDoNotMatter := by
  intro s k data tail p h h' hl
  obtain ⟨⟨hp, -⟩, -⟩ := locate_eq_some.mp hl
  have hx' := exec_notify_found h' (locate_take_append tail hl)
  rw [frameAt_take_append tail hp] at hx'
  exact ⟨_, _, exec_notify_found h hl, hx', dispatchFrame_appendData_shown _ _ _ _ k⟩

end Sys2Proof.Machine
end

section
/-! The caller's operations: INIT line by line (44_host_operations.md R190 to R193), what a command hands over (R194 to R199),
and that the transmit and the receive path do not see each other (R200). -/

namespace Sys2Proof.Machine

open Sys2Proof.Statements (ModeWriteFails modeWrite hostCommand)

/-! ### The tests of INIT and its mode write (R190, R192) -/

theorem initWriteFails_iff (s : State) : initWriteFails s.params s.answers.written = true ↔ ModeWriteFails s := by
  simp [initWriteFails, ModeWriteFails, and_assoc]

theorem initError_ne_none_iff {s : State} {sink : Bool} :
    initError s.params sink s.answers ≠ none ↔ sink = false ∨ s.answers.devCfgOk = false ∨ ModeWriteFails s := by
  rw [initError_isSome, initWriteFails_iff]

/-- `modeWrite` in the model's words. -/
theorem modeWrite_eq (s : State) (ch : Channel) (mode : Mode) :
    modeWrite s ch mode = if s.params.initSendsMode then [(ch, modeFrame mode)] else [] := by
  cases mode <;> rfl

/-- Without a consumer or a device configuration a failed INIT does not reach the mode write (R191). -/
theorem initFailed_of_not_reached {sink : Bool} {a : Answers} (h : sink = false ∨ a.devCfgOk = false) (p : Params)
    (ch : Channel) (mode : Mode) (k : Instance) :
    initFailed p ch sink mode a k = { k with results := k.results ++ [.fail] } := by
  have hreach : (sink && a.devCfgOk) = false := Bool.and_eq_false_iff.mpr h
  simp [initFailed_fields, hreach]

/-- With both the mode write is made before INIT fails (R192). -/
theorem initFailed_of_reached {s : State} {sink : Bool} (hs : sink = true) (hd : s.answers.devCfgOk = true) (ch : Channel)
    (mode : Mode) (k : Instance) :
    initFailed s.params ch sink mode s.answers k =
      { k with results := k.results ++ [.fail], transmits := k.transmits ++ modeWrite s ch mode } := by
  simp [initFailed_fields, modeWrite_eq, hs, hd]

/-- A failed INIT shows its result alone, or the mode write too where that is what failed (R191). -/
theorem initFailed_cases {s : State} {sink : Bool}
    (h : sink = false ∨ s.answers.devCfgOk = false ∨ ModeWriteFails s) (ch : Channel) (mode : Mode) (k : Instance) :
    initFailed s.params ch sink mode s.answers k = { k with results := k.results ++ [.fail] } ∨
    (ModeWriteFails s ∧ initFailed s.params ch sink mode s.answers k =
      { k with results := k.results ++ [.fail], transmits := k.transmits ++ modeWrite s ch mode }) := by
  by_cases hearly : sink = false ∨ s.answers.devCfgOk = false
  · exact .inl (initFailed_of_not_reached hearly _ _ _ _)
  · have hfails : ModeWriteFails s := (or_assoc.mpr h).resolve_left hearly
    simp only [not_or, Bool.not_eq_false] at hearly
    exact .inr ⟨hfails, initFailed_of_reached hearly.1 hearly.2 ch mode k⟩

/-! ### INIT (R190 to R193) -/

section
variable {s : State} {k : Instance} (hready : s.Ready k)
include hready

/-- INIT is refused with REINIT exactly on a configured core (R193). -/
theorem exec_init_eq_reinit {ch : Channel} {sink : Bool} {mode : Mode} :
    exec (.init ch sink mode) s = .refused .reinit ↔ k.cfgValid = true := by
  rw [exec_init_ready hready]
  cases k.cfgValid with
  | true => simp
  | false =>
    cases initError s.params sink s.answers with
    | some e => simp
    | none => cases channelTaken s ch <;> simp

theorem exec_init_failed {sink : Bool} (hv : k.cfgValid = false)
    (h : sink = false ∨ s.answers.devCfgOk = false ∨ ModeWriteFails s) (ch : Channel) (mode : Mode) :
    exec (.init ch sink mode) s = .next (putInst s (initFailed s.params ch sink mode s.answers k)) :=
  exec_of_change hready (.initFailed ch sink mode hv (initError_ne_none_iff.mpr h))

theorem exec_init_done {sink : Bool} {ch : Channel} (hv : k.cfgValid = false)
    (h : ¬ (sink = false ∨ s.answers.devCfgOk = false ∨ ModeWriteFails s)) (hfree : channelTaken s ch = false)
    (mode : Mode) : exec (.init ch sink mode) s = .next (putInst s (initDone s.params ch mode k)) :=
  exec_of_change hready (.initDone ch sink mode hv (not_not.mp (mt initError_ne_none_iff.mp h)) hfree)

end

/-- Settles O45: the refusal, the three tests in order, and the success where none of them fails. -/
theorem initFollowsItsPseudocode : Obligations.InitFollowsItsPseudocode := by
  intro s k ch sink mode hready
  refine ⟨(exec_init_eq_reinit hready).mpr, fun hv hs => ?_, fun hv _ hd => ?_, fun hv hs hd hw => ?_,
    fun hv hs hd hw hfree => ?_⟩
  · rw [exec_init_failed hready hv (.inl hs), initFailed_of_not_reached (.inl hs)]
  · rw [exec_init_failed hready hv (.inr (.inl hd)), initFailed_of_not_reached (.inr hd)]
  · rw [exec_init_failed hready hv (.inr (.inr hw)), initFailed_of_reached hs hd]
  · rw [exec_init_done hready hv (by simp [hs, hd, hw]) (channelTaken_eq_false.mpr hfree), initDone_fields, modeWrite_eq]

/-- Settles O26: an INIT that goes on has failed or is done, as its tests say, and each shows its own result. -/
theorem failedInitAllocatesNothing : Obligations.FailedInitAllocatesNothing := by
  intro s t k k' ch sink mode hready hx hk'
  obtain ⟨-, hchange⟩ := exec_next_current hready hx hk'
  cases hchange with
  | ignored _ hi => cases hi
  | dispatched _ hi => cases hi
  | command _ hi => cases hi
  | initFailed _ _ _ hv he =>
    have htest := initError_ne_none_iff.mp he
    obtain e | ⟨hw, e⟩ := initFailed_cases htest ch mode k <;> rw [e]
    · exact ⟨iff_of_true rfl htest, fun _ => ⟨hv, rfl, rfl, rfl, rfl, rfl, rfl, .inl rfl⟩⟩
    · exact ⟨iff_of_true rfl htest, fun _ => ⟨hv, rfl, rfl, rfl, rfl, rfl, rfl, .inr ⟨hw, rfl⟩⟩⟩
  | initDone _ _ _ _ he =>
    have hok : (initDone s.params ch mode k).results ≠ k.results ++ [.fail] := by simp [initDone_fields]
    exact ⟨iff_of_false hok fun htest => initError_ne_none_iff.mpr htest he, fun hfail => absurd hfail hok⟩

/-- Settles O46: a reset leaves its core unconfigured and idle. -/
theorem reinitRefusedUntilReset : Obligations.ReinitRefusedUntilReset := by
  refine ⟨fun s k ch sink mode hready => (exec_init_eq_reinit hready).mpr, ?_⟩
  intro s t k es hm hp hready hstep ch sink mode hreinit
  rw [step_reset hm hp] at hstep
  obtain ⟨_, -, -, rfl⟩ := resetEvent_next hstep
  have hready' : (putInst { s with pending := es } Instance.reset).Ready Instance.reset := putInst_ready hready.1 rfl
  exact absurd ((exec_init_eq_reinit hready').mp hreinit) (by decide)

/-! ### Commands (R194 to R199) -/

/-- The commands of R195 to R198 run as `CMD_TX` of the bytes of R67. -/
theorem transmits_of_mem_hostCommand {i : Instr} {C : List Byte} (h : (i, C) ∈ hostCommand) : Transmits i C := by
  simp only [hostCommand, List.mem_cons, Prod.mk.injEq, List.not_mem_nil, or_false] at h
  obtain ⟨rfl, rfl⟩ | ⟨rfl, rfl⟩ | ⟨rfl, rfl⟩ | ⟨rfl, rfl⟩ | ⟨rfl, rfl⟩ := h
  · exact .setMode .passive
  · exact .setMode .active
  · exact .sleep
  · exact .wakeup
  · exact .requestRead

theorem exec_command {s : State} {k : Instance} {i : Instr} {C : List Byte} (hready : s.Ready k) (hi : Transmits i C) :
    exec i s = .next (putInst s (cmdTxInst C s.answers k)) :=
  exec_of_change hready (.command C hi)

/-- The core a command ran on is what `CMD_TX` makes of it. -/
theorem exec_command_current {s t : State} {k k' : Instance} {i : Instr} {C : List Byte} (hready : s.Ready k)
    (hi : Transmits i C) (hx : exec i s = .next t) (hk' : t.insts[t.cur]? = some k') : k' = cmdTxInst C s.answers k := by
  rw [exec_command hready hi] at hx
  cases hx
  exact Option.some.inj (hk'.symm.trans (putInst_current _ hready.1))

/-- A write fails only where it reports 0 bytes (R199). -/
theorem writeResult_eq (w : Fin 8) : writeResult w = if w.val = 0 then .fail else .ok := by
  simp [writeResult]

/-- Settles O48: each command is `CMD_TX` of its frame, and the core is configured. -/
theorem commandsHandOverTheirFrame : Obligations.CommandsHandOverTheirFrame := by
  intro s k i C hmem hready hv
  rw [exec_command hready (transmits_of_mem_hostCommand hmem), cmdTxInst_configured hv, writeResult_eq]
  rfl

/-! ### The two paths (R200) -/

/-- An operation on another idle core put in the place of the current one. -/
theorem exec_on_putInst {s : State} {k j j' : Instance} {i : Instr} (hready : s.Ready k) (hj : j.recOut = none)
    (hchange : Change (putInst s j) j i j') : exec i (putInst s j) = .next (putInst s j') := by
  rw [exec_of_change (putInst_ready hready.1 hj) hchange, putInst_putInst]

/-- `CMD_TX` reads nothing the receive path writes: with other contents there it does the same. -/
theorem cmdTxInst_with_receive_path (C : List Byte) (a : Answers) (k : Instance) (b : Memory) (n : Nat)
    (ds : List Record) (sts : List NotifyStatus) :
    cmdTxInst C a { k with buf := b, bufLen := n, deliveries := ds, statuses := sts } =
      { cmdTxInst C a k with buf := b, bufLen := n, deliveries := ds, statuses := sts } := by
  cases hv : k.cfgValid with
  | true => simp [cmdTxInst_configured, hv, reportResult, transmit]
  | false => simp [cmdTxInst_unconfigured, hv, reportResult]

section
variable (tx : List (Channel × List Byte)) (rs : List OpResult)

/-- The dispatch of bytes reads nothing a command writes. -/
theorem dispatchBytes_with_transmit_path (B : List Byte) (acc : Bool) (k : Instance) :
    dispatchBytes B acc { k with transmits := tx, results := rs } =
      { dispatchBytes B acc k with transmits := tx, results := rs } := by
  cases hl : locate B with
  | none => rw [dispatchBytes_not_found hl, dispatchBytes_not_found hl]; rfl
  | some p =>
    rw [dispatchBytes_found hl, dispatchBytes_found hl]
    cases hok : checksumOk (frameAt B p) with
    | false => rw [dispatchFrame_invalid hok, dispatchFrame_invalid hok]; rfl
    | true =>
      cases acc with
      | true => rw [dispatchFrame_accepted hok, dispatchFrame_accepted hok]; rfl
      | false => simp [dispatchFrame, hok, offer]

theorem ignores_with_transmit_path {k : Instance} {ch : Channel} {data : List Byte} {st : NotifyStatus}
    (h : Ignores k ch data st) : Ignores { k with transmits := tx, results := rs } ch data st := by
  cases h with
  | unconfigured hv => exact .unconfigured hv
  | channel hv hc => exact .channel hv hc
  | empty hv hc hd => exact .empty hv hc hd

/-- What a NOTIFY does to a core does not depend on the core's transmit trace and results, nor on what stands in the
system in its place. -/
theorem change_notify_with_transmit_path {s : State} {k k' : Instance} {ch : Channel} {data : List Byte}
    (h : Change s k (.notify ch data) k') (j : Instance) :
    Change (putInst s j) { k with transmits := tx, results := rs } (.notify ch data)
      { k' with transmits := tx, results := rs } := by
  cases h with
  | ignored st hi hst =>
    cases hi
    exact .ignored st (.notify ch data) (ignores_with_transmit_path tx rs hst)
  | dispatched B hi hv hc hd hcap hB =>
    cases hi
    rw [← dispatchBytes_with_transmit_path]
    exact .dispatched B (.notify ch data) hv hc hd hcap hB
  | command C hi => cases hi

end

/-- Settles O31: `CMD_TX` writes the transmit trace and the results only, and neither path reads what the other writes. -/
theorem transmitAndReceiveAreIndependent : Obligations.TransmitAndReceiveAreIndependent := by
  refine ⟨fun s t k k' i C hmem hready hx hk' => ?_, fun s k k' i C b n ds sts hmem hready hx => ?_,
    fun s k k' ch data tx rs hready hx => ?_⟩
  · obtain rfl := exec_command_current hready (transmits_of_mem_hostCommand hmem) hx hk'
    obtain ⟨_, _, e, -⟩ := cmdTxInst_fields C s.answers k
    rw [e]
    exact ⟨rfl, fun _ => rfl, rfl, rfl, rfl, rfl, rfl, rfl⟩
  · have hi := transmits_of_mem_hostCommand hmem
    obtain rfl := exec_command_current hready hi hx (putInst_current k' hready.1)
    rw [← cmdTxInst_with_receive_path]
    exact exec_on_putInst hready hready.2 (.command C hi)
  · obtain ⟨-, hchange⟩ := exec_next_current hready hx (putInst_current k' hready.1)
    exact exec_on_putInst hready hready.2 (change_notify_with_transmit_path tx rs hchange _)

end Sys2Proof.Machine
end

section
/-! What an operation reports and when it is refused: results and error classes (60_exceptions.md R220 to R222), refusals
(R229, R238), and that an operation of a system that keeps its invariant never faults. -/

namespace Sys2Proof.Machine

open Sys2Proof.Statements (Runs)

/-! ### The error classes of a command and of INIT (R221) -/

theorem commandError_eq_config {v : Bool} {a : Answers} : commandError v a = some .config ↔ v = false := by
  cases v with
  | false => simp [commandError]
  | true => by_cases hw : a.written = 0 <;> simp [commandError, hw]

theorem commandError_eq_transport {v : Bool} {a : Answers} :
    commandError v a = some .transport ↔ v = true ∧ a.written = 0 := by
  cases v with
  | false => simp [commandError]
  | true => by_cases hw : a.written = 0 <;> simp [commandError, hw]

theorem initError_eq_config {p : Params} {sink : Bool} {a : Answers} :
    initError p sink a = some .config ↔ sink = false ∨ a.devCfgOk = false := by
  cases sink with
  | false => simp [initError]
  | true =>
    cases hd : a.devCfgOk with
    | false => simp [initError, hd]
    | true => cases hw : initWriteFails p a.written <;> simp [initError, hd, hw]

/-- The mode write is what makes INIT fail only once both earlier tests have passed (R190, R226). -/
theorem initError_eq_transport {p : Params} {sink : Bool} {a : Answers} :
    initError p sink a = some .transport ↔ sink = true ∧ a.devCfgOk = true ∧ initWriteFails p a.written = true := by
  cases sink with
  | false => simp [initError]
  | true =>
    cases hd : a.devCfgOk with
    | false => simp [initError, hd]
    | true => cases hw : initWriteFails p a.written <;> simp [initError, hd, hw]

/-- Settles O51: the two tables are read off, and each class of a command or INIT has its own test. -/
theorem errorClassesAndTheirReports : Obligations.ErrorClassesAndTheirReports := by
  refine ⟨rfl, rfl, fun v a => ⟨commandError_eq_config, commandError_eq_transport⟩,
    fun p sink a => ⟨initError_eq_config, ?_⟩⟩
  rw [initError_eq_transport]
  simp [initWriteFails, and_assoc]

/-! ### The result of an operation (R222) -/

theorem not_transmits_of_receives {k : Instance} {i : Instr} {ch : Channel} {data C : List Byte}
    (h : Receives k i ch data) : ¬ Transmits i C := by
  cases h <;> nofun

/-- What receives answers the caller nothing. -/
theorem change_receives_results {s : State} {k k' : Instance} {i : Instr} {ch : Channel} {data : List Byte}
    (hi : Receives k i ch data) (h : Change s k i k') : k'.results = k.results := by
  cases h with
  | ignored => rfl
  | dispatched B =>
    obtain ⟨-, -, -, -, hresults⟩ := dispatchBytes_frame B s.answers.accepts (appendData _ k)
    exact hresults
  | initFailed => cases hi
  | initDone => cases hi
  | command C htx => exact absurd htx (not_transmits_of_receives hi)

/-- What does not receive answers the caller once, and shows no status. -/
theorem change_caller_result {s : State} {k k' : Instance} {i : Instr} (hi : ∀ ch data, ¬ Receives k i ch data)
    (h : Change s k i k') : (∃ r, k'.results = k.results ++ [r]) ∧ k'.statuses = k.statuses := by
  cases h with
  | ignored _ hrc => exact absurd hrc (hi _ _)
  | dispatched _ hrc => exact absurd hrc (hi _ _)
  | initFailed => rw [initFailed_fields]; exact ⟨⟨_, rfl⟩, rfl⟩
  | initDone => rw [initDone_fields]; exact ⟨⟨_, rfl⟩, rfl⟩
  | command C =>
    obtain ⟨r, ts, e, -⟩ := cmdTxInst_fields C s.answers k
    rw [e]; exact ⟨⟨r, rfl⟩, rfl⟩

/-- Settles O28: the five caller operations are not among the receivers, and NOTIFY is. -/
theorem oneResultPerCallerOperation : Obligations.OneResultPerCallerOperation := by
  intro i s t k k' hready hx hk'
  obtain ⟨-, hchange⟩ := exec_next_current hready hx hk'
  constructor
  · intro hcaller
    refine change_caller_result (fun ch data hrc => ?_) hchange
    obtain ⟨_, _, _, rfl⟩ | ⟨_, rfl⟩ | rfl | rfl | rfl := hcaller <;> cases hrc
  · rintro ⟨ch, data, rfl⟩
    exact change_receives_results (.notify ch data) hchange

/-! ### No operation faults (R220) -/

/-- From an empty buffer a dispatch cycle reads only what it has just written (R46). -/
theorem receive_ne_fault {k : Instance} (h0 : k.bufLen = 0) (ch : Channel) (data : List Byte) (s : State) (f : Fault) :
    receive ch data s k ≠ .fault f := by
  unfold receive
  rw [bufBytes_appendData_empty data h0]
  split_ifs <;> nofun

theorem exec_init_ne_fault {s : State} {k : Instance} (hready : s.Ready k) (ch : Channel) (sink : Bool) (mode : Mode)
    (f : Fault) : exec (.init ch sink mode) s ≠ .fault f := by
  rw [exec_init_ready hready]
  cases initError s.params sink s.answers with
  | some e => cases k.cfgValid <;> nofun
  | none => cases k.cfgValid <;> cases channelTaken s ch <;> nofun

/-- An operation presented to a core of the system never faults: one in progress refuses it, and otherwise the buffer
it starts from is empty (R24). -/
theorem exec_ne_fault {s : State} {k : Instance} (hs : s.Inv) (hk : s.insts[s.cur]? = some k) (i : Instr) (f : Fault) :
    exec i s ≠ .fault f := by
  cases hr : k.recOut with
  | some r => rw [exec_busy hk hr]; nofun
  | none =>
    have hready : s.Ready k := ⟨hk, hr⟩
    obtain ⟨ch, sink, mode, rfl⟩ | ⟨ch, data, hi⟩ | ⟨C, hi⟩ := instr_cases k i
    · exact exec_init_ne_fault hready ch sink mode f
    · rw [exec_receives hready hi]
      exact receive_ne_fault ((hs.each k (List.mem_of_getElem? hk)).emptyAtBoundary hr) ch data s f
    · rw [exec_command hready hi]; nofun

/-! ### When an operation is refused (R229, R238) -/

/-- Settles O41: a busy core is the first thing every instruction tests. -/
theorem busyInstanceRefusesEveryOperation : Obligations.BusyInstanceRefusesEveryOperation :=
  fun _ _ _ i hk hr => exec_busy hk hr i

/-- INIT on an idle core is refused where the core is configured (R193), or where it would succeed and the channel
is taken (R233). -/
theorem exec_init_refused {s : State} {k : Instance} (hready : s.Ready k) {ch : Channel} {sink : Bool} {mode : Mode}
    {r : Refusal} (h : exec (.init ch sink mode) s = .refused r) :
    (r = .reinit ∧ k.cfgValid = true) ∨ (r = .sharedChannel ∧ sink = true ∧ channelTaken s ch = true) := by
  rw [exec_init_ready hready] at h
  split at h
  next hv =>
    cases h
    exact .inl ⟨rfl, hv⟩
  next =>
    split at h
    next => cases h
    next he =>
      split at h
      next ht =>
        cases h
        exact .inr ⟨rfl, (initError_none.mp he).1, ht⟩
      next => cases h

theorem channelTaken_eq_true {s : State} {ch : Channel} :
    channelTaken s ch = true ↔ ∃ k ∈ s.insts, k.cfgValid = true ∧ k.cfgChannel = ch := by
  simp [channelTaken]

/-- Every capacity R9 allows holds a data frame. -/
theorem overCapacity_frameBytes {p : Params} (h : p.wf = true) (f : DataFrame) :
    overCapacity p (frameBytes f).length = false := by
  rw [frameBytes_length, ← Bool.not_eq_true, overCapacity_eq_true]
  rintro ⟨c, hc, hlt⟩
  simp only [Params.wf, hc, Bool.and_eq_true, decide_eq_true_eq] at h
  obtain ⟨⟨hcap, -⟩, -⟩ := h
  exact absurd hcap (Nat.not_le.mpr hlt)

/-- Of what receives only NOTIFY is refused: for its own channel, with more bytes than the capacity (R52). -/
theorem exec_receives_refused {s : State} {k : Instance} (hp : s.params.wf = true) (hready : s.Ready k) {i : Instr}
    {ch : Channel} {data : List Byte} (hi : Receives k i ch data) {r : Refusal} (h : exec i s = .refused r) :
    r = .bufferCapacity ∧ i = .notify k.cfgChannel data ∧ overCapacity s.params data.length = true := by
  rw [exec_receives hready hi] at h
  obtain rfl := receive_refused h
  obtain ⟨-, hch, -, hcap⟩ := receive_eq_bufferCapacity.mp h
  cases hi with
  | notify => exact ⟨rfl, by rw [hch], hcap⟩
  | dataFrame f => rw [overCapacity_frameBytes hp f] at hcap; cases hcap

/-- Settles O30: an operation in progress refuses everything, and on an idle core each family has its own refusals. -/
theorem operationsStopOnlyAsRefusalsSay : Obligations.OperationsStopOnlyAsRefusalsSay := by
  intro i s k hs hk
  refine ⟨exec_ne_fault hs hk i, fun r h => ?_⟩
  cases hr : k.recOut with
  | some rec =>
    rw [exec_busy hk hr] at h
    cases h
    exact .inl ⟨rfl, nofun⟩
  | none =>
    right
    have hready : s.Ready k := ⟨hk, hr⟩
    obtain ⟨ch, sink, mode, rfl⟩ | ⟨ch, data, hi⟩ | ⟨C, hi⟩ := instr_cases k i
    · obtain ⟨rfl, hv⟩ | ⟨rfl, rfl, ht⟩ := exec_init_refused hready h
      · exact .inl ⟨rfl, ⟨ch, sink, mode, rfl⟩, hv⟩
      · exact .inr (.inl ⟨rfl, ch, mode, rfl, channelTaken_eq_true.mp ht⟩)
    · obtain ⟨rfl, e, hcap⟩ := exec_receives_refused hs.params hready hi h
      obtain ⟨c, hc, hlt⟩ := overCapacity_eq_true.mp hcap
      exact .inr (.inr ⟨rfl, data, c, e, hc, hlt⟩)
    · rw [exec_command hready hi] at h
      cases h

/-! ### When a step is refused (R238) -/

/-- A step runs the instruction its next event carries, whichever of the three kinds the event is. -/
theorem step_runs {s s' : State} {i : Instr} (hm : s.refusalMark = none) (h : Runs s i s') : step s = exec i s' := by
  obtain ⟨n, a, es, ⟨bs, rest, hp, hd, rfl⟩ | ⟨c, hp, rfl, rfl⟩ | ⟨f, hp, rfl, rfl⟩⟩ := h
  · rw [step_present hm hp hd, remaining_eq]; rfl
  · exact step_emit hm hp
  · exact step_arrive hm hp

theorem acceptEvent_ne_refused (n : Nat) (s : State) (r : Refusal) : acceptEvent n s ≠ .refused r := by
  unfold acceptEvent
  cases s.insts[n]? with
  | none => nofun
  | some k => cases hr : k.recOut <;> simp [hr]

theorem resetEvent_ne_refused (n : Nat) (s : State) (r : Refusal) : resetEvent n s ≠ .refused r := by
  unfold resetEvent
  cases s.insts[n]? with
  | none => nofun
  | some k => cases hb : busy k <;> simp [hb]

/-- A step refuses for the bytes it is presented, or because the instruction it runs is refused: no other event refuses. -/
theorem step_refused {s : State} {r : Refusal} (hm : s.refusalMark = none) (h : step s = .refused r) :
    (r = .illegalEncoding ∧ ∃ n bs a es e, s.pending = .present n bs a :: es ∧
      decode s.params.chW .htx bs = .error e) ∨
    ∃ i s', Runs s i s' ∧ exec i s' = .refused r := by
  have hrun : ∀ {i s'}, Runs s i s' → ∃ i s', Runs s i s' ∧ exec i s' = .refused r :=
    fun hr => ⟨_, _, hr, (step_runs hm hr).symm.trans h⟩
  match hp : s.pending with
  | [] => rw [step_idle hm hp] at h; cases h
  | .accept n :: es => exact absurd ((step_accept hm hp).symm.trans h) (acceptEvent_ne_refused n _ r)
  | .reset n :: es => exact absurd ((step_reset hm hp).symm.trans h) (resetEvent_ne_refused n _ r)
  | .emit n c a :: es => exact .inr (hrun ⟨n, a, es, .inr (.inl ⟨c, hp, rfl, rfl⟩)⟩)
  | .arrive n f a :: es => exact .inr (hrun ⟨n, a, es, .inr (.inr ⟨f, hp, rfl, rfl⟩)⟩)
  | .present n bs a :: es =>
    cases hd : decode s.params.chW .htx bs with
    | error e =>
      rw [step_present_illegal hm hp hd] at h
      cases h
      exact .inl ⟨rfl, n, bs, a, es, e, rfl, hd⟩
    | ok ir =>
      obtain ⟨i, rest⟩ := ir
      exact .inr (hrun ⟨n, a, es, .inl ⟨bs, rest, hp, hd, rfl⟩⟩)

/-- Settles O59: bytes that spell no operation are the step's own refusal; every other is its instruction's. -/
theorem refusalsAreExactlyTheFive : Obligations.RefusalsAreExactlyTheFive := by
  intro s r hm
  constructor
  · intro h
    refine (step_refused hm h).imp_right ?_
    rintro ⟨i, s', hrun, hx⟩
    exact ⟨exec_refused hx, i, s', hrun, hx⟩
  · rintro (⟨rfl, n, bs, a, es, e, hp, hd⟩ | ⟨-, i, s', hrun, hx⟩)
    · exact step_present_illegal hm hp hd
    · exact (step_runs hm hrun).trans hx

end Sys2Proof.Machine
end

section
/-! The system after reset: every core is without a handle and the invariant holds (70_reset_and_hazards.md R250;
00_scope.md R9). -/

namespace Sys2Proof.Machine

/-- Reset leaves every core of the system in the one reset state. -/
theorem eq_reset_of_mem_resetWith {p : Params} {n : Nat} {k : Instance} (hk : k ∈ (State.resetWith p n).insts) :
    k = Instance.reset := by
  rw [resetWith_insts] at hk
  exact List.eq_of_mem_replicate hk

/-- Cores right after reset share no channel, for none of them is configured. -/
theorem distinctChannels_replicate_reset (n : Nat) : distinctChannels (List.replicate n Instance.reset) :=
  List.pairwise_replicate.mpr (.inr fun hv => nomatch hv)

theorem resetWith_inv {p : Params} {n : Nat} (hp : p.wf = true) (hn : 0 < n) : (State.resetWith p n).Inv where
  params := hp
  someInst := by simp [Nat.ne_of_gt hn]
  each k hk := by
    rw [eq_reset_of_mem_resetWith hk]
    exact reset_instance_inv p
  distinct := distinctChannels_replicate_reset n

/-- Settles O35: each core is the reset core, whose fields are as R250 asks. -/
theorem resetLeavesNoHandle : Obligations.ResetLeavesNoHandle := by
  refine ⟨fun p n => ⟨resetWith_refusalMark p n, by simp, fun k hk => ?_⟩, _, _, rfl⟩
  obtain rfl := eq_reset_of_mem_resetWith hk
  exact ⟨rfl, rfl, rfl, rfl⟩

/-- Settles O36: the reset core keeps its own invariant and holds no channel, and the parameters of `State.reset` are
as R9 asks. -/
theorem resetMeetsInvariant : Obligations.ResetMeetsInvariant :=
  ⟨fun _ _ => resetWith_inv, resetWith_inv (by decide) (by decide)⟩

end Sys2Proof.Machine
end

section
/-! The decoder and the encoder are inverse to each other (30_encoding.md R60, R67, R70 to R73). -/

namespace Sys2Proof

open Machine
open Sys2Proof.Statements (IllegalHost)

/-! ### Host transactions (R70 to R72) -/

theorem decodeInit_bytes {chW : Nat} {h : Byte} {body rest : List Byte} {i : Instr}
    (hd : decodeInit chW h body = .ok (i, rest)) :
    ∃ ch, i = .init ch (headerS h) (modeOfBit (headerM h)) ∧ body = ch :: rest := by
  unfold decodeInit at hd
  split at hd
  · split_ifs at hd
    cases hd
    exact ⟨_, rfl, rfl⟩
  · cases hd

theorem decodeNotify_bytes {chW : Nat} {body rest : List Byte} {i : Instr}
    (hd : decodeNotify chW body = .ok (i, rest)) :
    ∃ ch data, i = .notify ch data ∧ body = ch :: (beBytes (BitVec.ofNat 16 data.length) ++ data ++ rest) := by
  unfold decodeNotify at hd
  split at hd
  · rename_i ch n1 n0 data
    split_ifs at hd with _ hlen
    cases hd
    refine ⟨ch, _, rfl, ?_⟩
    rw [List.length_take_of_le (Nat.le_of_not_lt hlen), beBytes_nlen, List.append_assoc, List.take_append_drop]
    rfl
  · cases hd

theorem decodePlain_bytes {h : Byte} {i j : Instr} {body rest : List Byte}
    (hd : decodePlain h i body = .ok (j, rest)) :
    j = i ∧ body = rest ∧ headerM h = false ∧ headerS h = false := by
  unfold decodePlain at hd
  split_ifs at hd with hbits
  cases hd
  simpa using hbits

/-- A header that is a whole transaction is the encoding of its operation. -/
theorem decodePlain_header {h : Byte} {i j : Instr} {body rest : List Byte} {op : Nat}
    (hd : decodePlain h i body = .ok (j, rest)) (hh : h = header (headerOp h) (headerM h) (headerS h))
    (hop : headerOp h = op) (hi : encode i = [header op false false]) : h :: body = encode j ++ rest := by
  obtain ⟨rfl, rfl, hM, hS⟩ := decodePlain_bytes hd
  rw [hop, hM, hS] at hh
  rw [hi, ← hh]
  rfl

theorem decodeHost_bytes {chW : Nat} {bs rest : List Byte} {i : Instr}
    (hd : decodeHost chW bs = .ok (i, rest)) : bs = encode i ++ rest := by
  unfold decodeHost at hd
  split at hd
  · cases hd
  · rename_i h body
    by_cases hr : headerReserved h = 0
    case neg =>
      rw [if_pos hr] at hd
      cases hd
    rw [if_neg (not_not.mpr hr)] at hd
    have hh := header_of_fields h hr
    split at hd
    next hop =>
      obtain ⟨ch, rfl, rfl⟩ := decodeInit_bytes hd
      rw [encode, modeBit_modeOfBit, ← hop, ← hh]
      rfl
    next hop =>
      split_ifs at hd with hbits
      obtain ⟨hM, hS⟩ : headerM h = false ∧ headerS h = false := by simpa using hbits
      obtain ⟨ch, data, rfl, rfl⟩ := decodeNotify_bytes hd
      rw [hop, hM, hS] at hh
      simp [encode, ← hh]
    next hop =>
      split_ifs at hd with hS
      cases hd
      rw [encode, modeBit_modeOfBit, ← hop, ← Bool.eq_false_of_not_eq_true hS, ← hh]
      rfl
    next hop => exact decodePlain_header hd hh hop rfl
    next hop => exact decodePlain_header hd hh hop rfl
    next hop => exact decodePlain_header hd hh hop rfl
    next => cases hd

theorem decodeHost_init {chW : Nat} {ch : Channel} (hch : channelFits chW ch = true) (sink : Bool) (mode : Mode)
    (rest : List Byte) :
    decodeHost chW (header 0 (modeBit mode) sink :: ch :: rest) = .ok (.init ch sink mode, rest) := by
  cases mode <;> cases sink <;> exact if_pos hch

theorem decodeNotify_encode {chW : Nat} {ch : Channel} {data : List Byte} (hch : channelFits chW ch = true)
    (hlen : data.length < 65536) (rest : List Byte) :
    decodeNotify chW (ch :: (beBytes (BitVec.ofNat 16 data.length) ++ data ++ rest)) =
      .ok (.notify ch data, rest) := by
  simp [decodeNotify, beBytes, hch, nlen_roundtrip hlen]

theorem decodeHost_encode {chW : Nat} {i : Instr} (hf : i.format = .htx) (hw : i.wf chW = true) (rest : List Byte) :
    decodeHost chW (encode i ++ rest) = .ok (i, rest) := by
  cases i with
  | init ch sink mode => exact decodeHost_init hw sink mode rest
  | notify ch data =>
    obtain ⟨hch, hlen⟩ : channelFits chW ch = true ∧ data.length < 65536 := by simpa [Instr.wf] using hw
    exact decodeNotify_encode hch hlen rest
  | setMode mode => cases mode <;> rfl
  | sleep | wakeup | requestRead => rfl
  | _ => cases hf

/-! ### Command frames and data frames (R60, R67) -/

theorem command_instr_format (c : Command) : c.instr.format = .cmd7 := by cases c <;> rfl

/-- The decoder of command frames names the one whose bytes it is given. -/
theorem decodeCommand_bytes {bs rest : List Byte} {i : Instr} (hd : decodeCommand bs = .ok (i, rest)) :
    ∃ c : Command, i = c.instr ∧ bs = encode c.instr ++ rest := by
  have hrow : ∀ c : Command, bs.take cmdLen = encode c.instr → bs = encode c.instr ++ bs.drop cmdLen := fun c hc => by
    rw [← hc, List.take_append_drop]
  unfold decodeCommand at hd
  split_ifs at hd with h1 h2 h3 h4 h5 <;> cases hd
  · exact ⟨.setPassive, rfl, hrow _ h1⟩
  · exact ⟨.setActive, rfl, hrow _ h2⟩
  · exact ⟨.requestRead, rfl, hrow _ h3⟩
  · exact ⟨.sleep, rfl, hrow _ h4⟩
  · exact ⟨.wakeup, rfl, hrow _ h5⟩

theorem decodeCommand_encode (c : Command) (rest : List Byte) :
    decodeCommand (encode c.instr ++ rest) = .ok (c.instr, rest) := by
  cases c <;> rfl

theorem decodeSerial_bytes {bs rest : List Byte} {i : Instr} (hd : decodeSerial bs = .ok (i, rest)) :
    ∃ f, i = .dataFrame f ∧ bs = frameBytes f ++ rest := by
  unfold decodeSerial at hd
  split_ifs at hd with h
  cases hd
  obtain ⟨hlen, h0, h1⟩ := h
  have hF : frameBytes (parseFrame (bs.take frameLen)) = bs.take frameLen :=
    frameBytes_parseFrame (List.length_take_of_le hlen) ((byteAt_take (by decide)).trans h0)
      ((byteAt_take (by decide)).trans h1)
  exact ⟨_, rfl, by rw [hF, List.take_append_drop]⟩

theorem decodeSerial_frameBytes (f : DataFrame) (rest : List Byte) :
    decodeSerial (frameBytes f ++ rest) = .ok (.dataFrame f, rest) := by
  have hmark : frameLen ≤ (frameBytes f ++ rest).length ∧ byteAt (frameBytes f ++ rest) 0 = mark0 ∧
      byteAt (frameBytes f ++ rest) 1 = mark1 := ⟨by simp [frameLen], rfl, rfl⟩
  have hlen : (frameBytes f).length = frameLen := frameBytes_length f
  rw [decodeSerial, if_pos hmark, List.take_left' hlen, List.drop_left' hlen, parseFrame_frameBytes]

/-! ### The three encodings -/

/-- Every instruction is of one of the three kinds: a host transaction, a command frame, a data frame. -/
theorem instr_kinds (i : Instr) : i.format = .htx ∨ (∃ c : Command, i = c.instr) ∨ ∃ f, i = .dataFrame f := by
  cases i with
  | cmdSetPassive => exact .inr (.inl ⟨.setPassive, rfl⟩)
  | cmdSetActive => exact .inr (.inl ⟨.setActive, rfl⟩)
  | cmdRequestRead => exact .inr (.inl ⟨.requestRead, rfl⟩)
  | cmdSleep => exact .inr (.inl ⟨.sleep, rfl⟩)
  | cmdWakeup => exact .inr (.inl ⟨.wakeup, rfl⟩)
  | dataFrame f => exact .inr (.inr ⟨f, rfl⟩)
  | _ => exact .inl rfl

/-- Settles O1, by the kind of the instruction. -/
theorem decodeInvertsEncode : Obligations.DecodeInvertsEncode := by
  intro chW i rest hw
  obtain hf | ⟨c, rfl⟩ | ⟨f, rfl⟩ := instr_kinds i
  · rw [hf]
    exact decodeHost_encode hf hw rest
  · rw [command_instr_format]
    exact decodeCommand_encode c rest
  · exact decodeSerial_frameBytes f rest

/-- Settles O2, by the encoding: each decoder consumes exactly the bytes that the encoder writes. -/
theorem decodeAcceptsOnlyEncodings : Obligations.DecodeAcceptsOnlyEncodings := by
  intro chW fmt bs i rest hd
  cases fmt with
  | htx => exact ⟨decodeHost_format hd, decodeHost_wf hd, decodeHost_bytes hd⟩
  | cmd7 =>
    obtain ⟨c, rfl, hbs⟩ := decodeCommand_bytes hd
    exact ⟨command_instr_format c, command_instr_wf c chW, hbs⟩
  | data32 =>
    obtain ⟨f, rfl, hbs⟩ := decodeSerial_bytes hd
    exact ⟨rfl, rfl, hbs⟩

/-- Settles O33: each word is the encoding of its instruction and nothing follows it. -/
theorem wordsDecodeAsWritten : Obligations.WordsDecodeAsWritten :=
  ⟨rfl, rfl, rfl, rfl, rfl, rfl, rfl, rfl, rfl, rfl, rfl, rfl⟩

/-! ### Illegal host encodings (R73) -/

theorem header_extract_op (op : Fin 8) (m s : Bool) : (header op m s).extractLsb' 0 3 = BitVec.ofFin op := by
  revert op m s; decide

theorem header_extract_reserved (op : Fin 8) (m s : Bool) : (header op m s).extractLsb' 5 3 = 0#3 := by
  revert op m s; decide

/-- The length field of an encoded NOTIFY is the number of payload bytes after it (R71). -/
theorem encode_notify (ch : Channel) {data : List Byte} (h : data.length < 65536) :
    ∃ n1 n0, encode (.notify ch data) = header 1 false false :: ch :: n1 :: n0 :: data ∧
      256 * n1.toNat + n0.toNat = data.length :=
  ⟨_, _, rfl, by rw [← be16_toNat, nlen_roundtrip h]⟩

/-- An operation with an encoding has no encoding that R73 makes illegal. -/
theorem encode_not_illegalHost {chW : Nat} {i : Instr} (hf : i.format = .htx) (hw : i.wf chW = true)
    (rest : List Byte) : ¬ IllegalHost chW (encode i ++ rest) := by
  rintro ⟨h, body, hbs, hill⟩
  cases i with
  | init ch sink mode =>
    obtain ⟨rfl, rfl⟩ := List.cons.inj hbs
    have hop : (header 0 (modeBit mode) sink).extractLsb' 0 3 = 0#3 := header_extract_op 0 _ _
    have hres : (header 0 (modeBit mode) sink).extractLsb' 5 3 = 0#3 := header_extract_reserved 0 _ _
    obtain ⟨j, hj, hbit⟩ : ∃ j, chW ≤ j ∧ ch.getLsbD j = true := by simpa [hop, hres] using hill
    rw [Instr.wf, not_channelFits_of_bit hj hbit] at hw
    cases hw
  | notify ch data =>
    obtain ⟨hch, hlen⟩ : channelFits chW ch = true ∧ data.length < 65536 := by simpa [Instr.wf] using hw
    obtain ⟨n1, n0, he, hn⟩ := encode_notify ch hlen
    rw [he] at hbs
    obtain ⟨rfl, rfl⟩ := List.cons.inj hbs
    obtain ⟨j, hj, hbit⟩ | hshort : (∃ j, chW ≤ j ∧ ch.getLsbD j = true) ∨
        (ch :: n1 :: n0 :: (data ++ rest)).length < 3 ∨ (data ++ rest).length < 256 * n1.toNat + n0.toNat := by
      simpa [header] using hill
    · rw [not_channelFits_of_bit hj hbit] at hch
      cases hch
    · simp only [List.length_append, List.length_cons, hn] at hshort
      omega
  | setMode mode =>
    obtain ⟨rfl, rfl⟩ := List.cons.inj hbs
    cases mode <;> simp [header, modeBit] at hill
  | sleep | wakeup | requestRead =>
    obtain ⟨rfl, rfl⟩ := List.cons.inj hbs
    simp [header] at hill
  | _ => cases hf

/-- Settles O6: accepted bytes are an encoding, which is never illegal, and only operations of R70 are accepted. -/
theorem illegalHostEncodingsRefused : Obligations.IllegalHostEncodingsRefused := by
  constructor
  · intro s n bs a es hm hp hill
    cases hd : decode s.params.chW .htx bs with
    | error e => exact step_present_illegal hm hp hd
    | ok ir =>
      obtain ⟨hf, hw, hbs⟩ := decodeAcceptsOnlyEncodings _ _ _ _ _ hd
      exact absurd (hbs ▸ hill) (encode_not_illegalHost hf hw _)
  · intro chW bs i rest hd
    have hf := decodeHost_format hd
    cases i with
    | init ch sink mode => exact .inl ⟨ch, sink, mode, rfl⟩
    | notify ch data => exact .inr (.inl ⟨ch, data, rfl⟩)
    | setMode mode => exact .inr (.inr (.inl ⟨mode, rfl⟩))
    | sleep => simp
    | wakeup => simp
    | requestRead => simp
    | _ => cases hf

end Sys2Proof
end

section
/-! The reads of the three pure components (20_memory.md R46; 43_stream_dispatcher.md R174) and of the buffer space: which
addresses each reads, and that it depends on no other byte. -/

namespace Sys2Proof.Machine

/-! ### The locator's scan (R101, R174) -/

theorem mem_scanReadsFrom {B : List Byte} {p a : Nat} (h : a ∈ scanReadsFrom p B) : p ≤ a ∧ a < p + B.length := by
  fun_induction scanReadsFrom p B with
  | case1 p a b rest => simp at h ⊢; omega
  | case2 p a b rest hno ih =>
    obtain rfl | rfl | h := by simpa using h
    · simp
    · simp
    · have := ih h
      simp at this ⊢; omega
  | case3 => simp at h

/-- Two reads for each pair of neighbours at most (R174). -/
theorem scanReadsFrom_length_le (p : Nat) (B : List Byte) : (scanReadsFrom p B).length ≤ 2 * (B.length - 1) := by
  fun_induction scanReadsFrom p B with
  | case1 => simp
  | case2 p a b rest hno ih => simp at ih ⊢; omega
  | case3 => simp

theorem scanReadsFrom_pair (p : Nat) (a b : Byte) (rest : List Byte) :
    p ∈ scanReadsFrom p (a :: b :: rest) ∧ p + 1 ∈ scanReadsFrom p (a :: b :: rest) := by
  rw [scanReadsFrom]
  split <;> simp

/-- `B'` is as long as `B` and agrees with it at every address that the scan reads, where `B` starts at address `p`. -/
def AgreesOnScan (p : Nat) (B B' : List Byte) : Prop :=
  B'.length = B.length ∧ ∀ a ∈ scanReadsFrom p B, B'[a - p]? = B[a - p]?

/-- The scan reads the pair it stands at, whether or not it stops there. -/
theorem agreesOnScan_pair {p : Nat} {a b : Byte} {rest B' : List Byte} (h : AgreesOnScan p (a :: b :: rest) B') :
    ∃ rest', B' = a :: b :: rest' ∧ rest'.length = rest.length := by
  obtain ⟨hlen, hreads⟩ := h
  obtain ⟨hp, hp1⟩ := scanReadsFrom_pair p a b rest
  have h0 := hreads p hp
  have h1 := hreads (p + 1) hp1
  match B' with
  | [] | [_] => simp at hlen
  | a' :: b' :: rest' =>
    obtain rfl : a' = a := by simpa using h0
    obtain rfl : b' = b := by simpa using h1
    exact ⟨rest', rfl, by simpa using hlen⟩

/-- Where the scan goes on, the reads of the rest agree too. -/
theorem agreesOnScan_tail {p : Nat} {a b : Byte} {rest rest' : List Byte}
    (hno : ¬ (a = mark0 ∧ b = mark1 ∧ frameLen ≤ rest.length + 2))
    (h : AgreesOnScan p (a :: b :: rest) (a :: b :: rest')) : AgreesOnScan (p + 1) (b :: rest) (b :: rest') := by
  obtain ⟨hlen, hreads⟩ := h
  refine ⟨by simpa using hlen, fun x hx => ?_⟩
  obtain ⟨hpx, -⟩ := mem_scanReadsFrom hx
  have hmem : x ∈ scanReadsFrom p (a :: b :: rest) := by
    rw [scanReadsFrom, if_neg hno]
    exact List.mem_cons_of_mem _ (List.mem_cons_of_mem _ hx)
  have := hreads x hmem
  rwa [show x - p = (x - (p + 1)) + 1 by omega, List.getElem?_cons_succ, List.getElem?_cons_succ] at this

/-- The scan depends on the bytes it reads and on the length alone. -/
theorem scan_congr {B B' : List Byte} {p : Nat} (h : AgreesOnScan p B B') :
    locateFrom p B' = locateFrom p B ∧ scanReadsFrom p B' = scanReadsFrom p B := by
  fun_induction scanReadsFrom p B generalizing B' with
  | case1 p a b rest hyes =>
    obtain ⟨rest', rfl, hlen⟩ := agreesOnScan_pair h
    simp [locateFrom, scanReadsFrom, hlen, hyes]
  | case2 p a b rest hno ih =>
    obtain ⟨rest', rfl, hlen⟩ := agreesOnScan_pair h
    obtain ⟨hloc, hreads⟩ := ih (agreesOnScan_tail hno h)
    rw [locateFrom, locateFrom, scanReadsFrom, hlen, if_neg hno, if_neg hno, if_neg hno, hloc, hreads]
    exact ⟨rfl, rfl⟩
  | case3 B p hshort =>
    obtain ⟨hlen, -⟩ := h
    match B with
    | [] =>
      obtain rfl := List.length_eq_zero_iff.mp hlen
      exact ⟨rfl, rfl⟩
    | [b] =>
      obtain ⟨b', rfl⟩ := List.length_eq_one_iff.mp hlen
      exact ⟨rfl, rfl⟩
    | a :: b :: rest => exact absurd rfl (hshort a b rest)

/-! ### Bytes at listed offsets -/

theorem byteAt_congr {F G : List Byte} {j : Nat} (h : F[j]? = G[j]?) : byteAt F j = byteAt G j := by
  rw [byteAt, byteAt, List.getD_eq_getElem?_getD, List.getD_eq_getElem?_getD, h]

theorem checksumSum_congr {F G : List Byte} (h : ∀ j ∈ checksumReads, F[j]? = G[j]?) :
    checksumSum F = checksumSum G := by
  have hbytes : ∀ j ∈ List.range 30, (byteAt F j).toNat = (byteAt G j).toNat := fun j hj => by
    rw [byteAt_congr (h j hj)]
  rw [checksumSum, checksumSum, byteSum_take, byteSum_take, List.map_congr_left hbytes]

theorem mem_decodeReads {j : Nat} : j ∈ decodeReads ↔ 4 ≤ j ∧ j ≤ 27 := by
  simp only [decodeReads, List.mem_map, List.mem_range]
  constructor
  · rintro ⟨k, hk, rfl⟩
    omega
  · rintro ⟨h4, h27⟩
    exact ⟨j - 4, by omega, by omega⟩

theorem frameAt_getElem? (B : List Byte) (p : Nat) {j : Nat} (hj : j < 32) : (frameAt B p)[j]? = B[p + j]? := by
  rw [frameAt_eq, List.getElem?_take_of_lt hj, List.getElem?_drop]

/-- Settles O9, function by function: the scan by its own recursion, the sum and the record by their offsets. -/
theorem readsAreBounded : Obligations.ReadsAreBounded := by
  refine ⟨fun B => ⟨fun a ha => ?_, scanReadsFrom_length_le 0 B, fun p hp => ?_, fun B' hlen hreads => ?_⟩,
    ⟨rfl, by decide, fun F G _ _ h => ⟨checksumSum_congr h, fun h30 h31 => ?_⟩⟩, rfl, by decide, fun F G h => ?_⟩
  · obtain ⟨-, hlt⟩ := mem_scanReadsFrom ha
    omega
  · obtain ⟨⟨hend, -⟩, -⟩ := locate_eq_some.mp hp
    exact ⟨hend, frameAt_length hend, fun j => frameAt_getElem? B p⟩
  · exact scan_congr (p := 0) ⟨hlen, hreads⟩
  · rw [checksumOk, checksumOk, checksumSum_congr h, be16At_congr (byteAt_congr h30) (byteAt_congr h31)]
  · exact decoderReadsOnlyMeasurements F G fun j h4 h27 => byteAt_congr (h j (mem_decodeReads.mpr ⟨h4, h27⟩))

/-! ### The buffer space (R12, R40) -/

/-- Settles O15, by whether the address read is the one written. -/
theorem bufferReadAfterWrite : Obligations.BufferReadAfterWrite := by
  refine fun m a b v => ⟨?_, write_wf a v⟩
  split_ifs with hab
  · rw [hab, read_write_same]
  · exact read_write_other m v hab

end Sys2Proof.Machine
end

section
/-! Delivery that waits for its consumer (43_stream_dispatcher.md R172) and the data frame as a notification (30_encoding.md
R60, R64). -/

namespace Sys2Proof.Machine

open Sys2Proof.Statements (Cycle)

/-! ### The waiting NOTIFY (R172) -/

/-- Without its consumer's acceptance a valid frame's record stays offered (R172). -/
theorem dispatchFrame_offered {F : List Byte} (h : checksumOk F = true) (k : Instance) :
    dispatchFrame F false k = { k with recOut := some (decodeRecord F) } := by
  simp [dispatchFrame, h, offer]

theorem acceptEvent_offered {s : State} {n : Nat} {k : Instance} {r : Record} (hk : s.insts[n]? = some k)
    (hr : k.recOut = some r) :
    acceptEvent n s = .next { s with insts := s.insts.set n (completeDelivery r k) } := by
  simp [acceptEvent, hk, hr]

/-- An idle core and a busy one stand at different places. -/
theorem ne_of_idle_of_busy {ks : List Instance} {m n : Nat} {j k : Instance} {r : Record} (hj : ks[m]? = some j)
    (hidle : j.recOut = none) (hk : ks[n]? = some k) (hbusy : k.recOut = some r) : m ≠ n := by
  rintro rfl
  obtain rfl : j = k := Option.some.inj (hj.symm.trans hk)
  rw [hbusy] at hidle
  cases hidle

/-- An instruction that goes on leaves a busy core alone: it was not presented to it (R229). -/
theorem exec_next_busy {i : Instr} {s t : State} {n : Nat} {k : Instance} {r : Record} (hx : exec i s = .next t)
    (hk : s.insts[n]? = some k) (hr : k.recOut = some r) : t.insts[n]? = some k := by
  obtain ⟨j, j', ⟨hj, hidle⟩, rfl, -⟩ := exec_next hx
  exact (putInst_other s j' (ne_of_idle_of_busy hj hidle hk hr).symm).trans hk

theorem acceptEvent_next_other {s t : State} {m n : Nat} (h : acceptEvent m s = .next t) (hmn : m ≠ n) :
    t.insts[n]? = s.insts[n]? := by
  obtain ⟨_, -, ⟨-, rfl⟩ | ⟨_, -, rfl⟩⟩ := acceptEvent_next h
  · rfl
  · exact List.getElem?_set_ne hmn

/-- A reset that goes on leaves a busy core alone (R251). -/
theorem resetEvent_next_busy {s t : State} {m n : Nat} {k : Instance} {r : Record} (h : resetEvent m s = .next t)
    (hk : s.insts[n]? = some k) (hr : k.recOut = some r) : t.insts[n]? = some k := by
  obtain ⟨j, hj, hidle, rfl⟩ := resetEvent_next h
  exact (List.getElem?_set_ne (ne_of_idle_of_busy hj hidle hk hr)).trans hk

/-- Settles O20: the offer, then each kind of step that is not its acceptance, then the acceptance. -/
theorem deliveryWaitsForConsumer : Obligations.DeliveryWaitsForConsumer := by
  refine ⟨fun s k data p h hl hok hacc => ?_, fun s t n k r hk hr hstep hhead => ?_,
    fun s n k r es hm hp hk hr => ?_⟩
  · rw [← frameAt_eq] at hok ⊢
    refine ⟨_, exec_notify_found h hl, ?_⟩
    have hframe := cycleFrame_dispatchFrame h.empty hl s.answers.accepts
    rw [hacc, dispatchFrame_offered hok] at hframe ⊢
    exact ⟨rfl, by simp [h.empty], rfl, rfl, hframe⟩
  · obtain ⟨-, rfl⟩ | ⟨m, es, hp, h⟩ | ⟨m, es, -, h⟩ | ⟨i, s', hrun, hx⟩ := step_next_runs hstep
    · exact hk
    · have hmn : m ≠ n := fun e => hhead (by rw [hp, e]; rfl)
      exact (acceptEvent_next_other h hmn).trans hk
    · exact resetEvent_next_busy h hk hr
    · exact exec_next_busy hx (by rw [runs_insts hrun, hk]) hr
  · have hx := acceptEvent_offered (s := { s with pending := es }) hk hr
    exact ⟨_, completeDelivery r k, (step_accept hm hp).trans hx, rfl, rfl, rfl, rfl, rfl, rfl, rfl, rfl, rfl, rfl⟩

/-! ### The data frame (R60, R64) -/

/-- Settles O42: both receive the same bytes on the same channel. -/
theorem dataFrameRunsAsNotification : Obligations.DataFrameRunsAsNotification := by
  intro s k f hready
  rw [exec_receives hready (.dataFrame f), exec_receives hready (.notify k.cfgChannel (frameBytes f))]

/-- Settles O43: the configuration is what a dispatch cycle tests first. -/
theorem dataFrameIgnoredUnconfigured : Obligations.DataFrameIgnoredUnconfigured := fun _ _ f hready hv =>
  exec_of_change hready (.ignored _ (.dataFrame f) (.unconfigured hv))

/-- The 32 bytes of a frame can be read on an idle configured core whose buffer is empty and has room for them. -/
theorem cycle_frameBytes {s : State} {k : Instance} (f : DataFrame) (hready : s.Ready k) (h0 : k.bufLen = 0)
    (hv : k.cfgValid = true) (hcap : ∀ c, s.params.bufCap = some c → 32 ≤ c) : Cycle s k (frameBytes f) where
  ready := hready
  empty := h0
  configured := hv
  nonempty := List.ne_nil_of_length_pos (by simp)
  fits := hcap

/-- A frame alone in a notification is the frame dispatched (R105 (b)). -/
theorem take_drop_frameBytes (f : DataFrame) : ((frameBytes f).drop 0).take 32 = frameBytes f := rfl

/-- Settles O21: the row runs as a NOTIFY, LOCATE finds the frame at the front, and CHECKSUM_OK decides. -/
theorem dataFrameDeliveredExactlyWhenValid : Obligations.DataFrameDeliveredExactlyWhenValid := by
  intro s k f hready h0 hv hcap hacc
  have hcycle := cycle_frameBytes f hready h0 hv hcap
  have hvalid := checksumOk_frameBytes (f := f)
  rw [dataFrameRunsAsNotification s k f hready, ← byteSum_take, frameBytes_take]
  split_ifs with hsum
  · obtain ⟨k', hx, hlen, hrec, hdel, hst, hframe⟩ :=
      validFrameIsDelivered s k _ 0 hcycle (locate_frameBytes f) (hvalid.mpr hsum) hacc
    rw [take_drop_frameBytes, frameBytes_record] at hdel
    exact ⟨k', hx, hlen, hrec, hframe, hdel, hst⟩
  · obtain ⟨k', hx, hlen, hrec, hdel, hst, hframe⟩ :=
      integrityErrorDiscardsBuffer s k _ 0 hcycle (locate_frameBytes f)
        (Bool.eq_false_of_not_eq_true (mt hvalid.mp hsum))
    exact ⟨k', hx, hlen, hrec, hframe, hdel, hst⟩

end Sys2Proof.Machine
end

section
/-! The command frames as instructions (log 1), commands without a configuration (44_host_operations.md R194), and the INIT
for a taken channel (60_exceptions.md R233). -/

namespace Sys2Proof.Machine

open Sys2Proof.Statements (frameCommand)

/-- The command frames as instructions run as `CMD_TX` of the bytes of R67 (log 1). -/
theorem transmits_of_mem_frameCommand {i : Instr} {C : List Byte} (h : (i, C) ∈ frameCommand) : Transmits i C := by
  simp only [frameCommand, List.mem_cons, Prod.mk.injEq, List.not_mem_nil, or_false] at h
  obtain ⟨rfl, rfl⟩ | ⟨rfl, rfl⟩ | ⟨rfl, rfl⟩ | ⟨rfl, rfl⟩ | ⟨rfl, rfl⟩ := h
  · exact .cmdSetPassive
  · exact .cmdSetActive
  · exact .cmdRequestRead
  · exact .cmdSleep
  · exact .cmdWakeup

/-- Settles O49: each row is `CMD_TX` of its own bytes, and the core is configured. -/
theorem commandFramesHandThemselvesOver : Obligations.CommandFramesHandThemselvesOver := by
  intro s k i C hmem hready hv
  rw [exec_command hready (transmits_of_mem_frameCommand hmem), cmdTxInst_configured hv, writeResult_eq]
  rfl

/-- Settles O50: `CMD_TX` on an unconfigured core hands nothing over. -/
theorem commandsFailUnconfigured : Obligations.CommandsFailUnconfigured := by
  intro s k i C hmem hready hv
  have hi : Transmits i C :=
    (List.mem_append.mp hmem).elim transmits_of_mem_hostCommand transmits_of_mem_frameCommand
  rw [exec_command hready hi, cmdTxInst_unconfigured hv]
  rfl

/-- Settles O56: a row and its operation hand over the same frame. -/
theorem commandRowsAreTheirOperations : Obligations.CommandRowsAreTheirOperations := by
  have hsame : ∀ {i j : Instr} {C : List Byte} (s : State), Transmits i C → Transmits j C → exec i s = exec j s :=
    fun s hi hj => (exec_transmits hi s).trans (exec_transmits hj s).symm
  exact fun s => ⟨hsame s .cmdSetPassive (.setMode .passive), hsame s .cmdSetActive (.setMode .active),
    hsame s .cmdRequestRead .requestRead, hsame s .cmdSleep .sleep, hsame s .cmdWakeup .wakeup⟩

/-- An INIT that passes its own tests is refused where its channel is taken (R233). -/
theorem exec_init_sharedChannel {s : State} {k : Instance} {sink : Bool} {ch : Channel} (hready : s.Ready k)
    (hv : k.cfgValid = false) (he : initError s.params sink s.answers = none) (ht : channelTaken s ch = true)
    (mode : Mode) : exec (.init ch sink mode) s = .refused .sharedChannel := by
  simp [exec_init_ready hready, hv, he, ht]

/-- Settles O47: all the tests pass, so the channel is looked at, and `j` has it. -/
theorem sharedChannelRefused : Obligations.SharedChannelRefused := by
  intro s k j ch mode hready hv hd hw hj hjv hjc
  have he : initError s.params true s.answers = none :=
    initError_none.mpr ⟨rfl, hd, Bool.eq_false_of_not_eq_true (mt (initWriteFails_iff s).mp hw)⟩
  exact exec_init_sharedChannel hready hv he (channelTaken_eq_true.mpr ⟨j, hj, hjv, hjc⟩) mode

end Sys2Proof.Machine
end

section
/-! A step event by event (00_scope.md R7, R12; 60_exceptions.md R238; 70_reset_and_hazards.md R250, R251): the instruction it
runs, the word placed for it, the refusal mark, a reset, and what has no meaning. -/

namespace Sys2Proof.Machine

/-! ### What a step runs (R7) -/

/-- Settles O52, event by event. -/
theorem stepRunsTheDecodedInstruction : Obligations.StepRunsTheDecodedInstruction := by
  refine ⟨fun s n bs rest a es i hm hp hd => ?_, fun s n c a es => step_emit, fun s n f a es => step_arrive,
    fun s => step_idle⟩
  exact step_runs hm ⟨n, a, es, .inl ⟨bs, rest, hp, hd, rfl⟩⟩

/-! ### The step after a word is placed (log 22) -/

theorem instrEvent_of_htx (s : State) {i : Instr} (h : i.format = .htx) :
    instrEvent s i = .present s.cur (encode i) s.answers := by
  cases i with
  | cmdSetPassive | cmdSetActive | cmdRequestRead | cmdSleep | cmdWakeup | dataFrame => cases h
  | _ => rfl

theorem instrEvent_command (s : State) (c : Command) : instrEvent s c.instr = .emit s.cur c s.answers := by
  cases c <;> rfl

/-- The event of a well-formed instruction runs it, on the core and with the draws it was made for. -/
theorem step_instrEvent {s t : State} {i : Instr} {es : List Event} (hw : i.wf t.params.chW = true)
    (hm : t.refusalMark = none) (hp : t.pending = instrEvent s i :: es) :
    step t = exec i (fetched s.cur s.answers es t) := by
  obtain hf | ⟨c, rfl⟩ | ⟨f, rfl⟩ := instr_kinds i
  · rw [instrEvent_of_htx s hf] at hp
    have hd := decodeHost_encode hf hw []
    rw [List.append_nil] at hd
    exact step_present hm hp hd
  · rw [instrEvent_command] at hp
    exact step_emit hm hp
  · exact step_arrive hm hp

theorem tableEvents_of_decodes {s : State} {nbits w : Nat} {i : Instr} {rest : List Byte}
    (hd : decode s.params.chW (tableFormat nbits) (tableBytes nbits w) = .ok (i, rest)) :
    tableEvents s nbits w = [instrEvent s i] := by
  simp [tableEvents, hd]

/-- Settles O58: what the word decodes to is well formed, and its event is the next one. -/
theorem tableWordRunsItsInstruction : Obligations.TableWordRunsItsInstruction := by
  intro s nbits w i rest hd
  obtain ⟨-, hw, -⟩ := decodeAcceptsOnlyEncodings _ _ _ _ _ hd
  have hp : (s.withFetchWord nbits w).pending = instrEvent s i :: s.pending := by
    rw [withFetchWord_pending, tableEvents_of_decodes hd, List.singleton_append]
  exact step_instrEvent hw rfl hp

/-! ### The refusal mark (R12, R238) -/

theorem advance_of_refused {s : State} {r : Refusal} (h : step s = .refused r) : s.advance = s.markRefused r := by
  simp [State.advance, h]

/-- Settles O53: a refused step marks the state, and marking a state with the mark it has changes nothing. -/
theorem refusalMarkIsKept : Obligations.RefusalMarkIsKept := by
  refine ⟨fun s r h => ?_, fun s r hm => ⟨step_marked hm, ?_⟩⟩
  · rw [advance_of_refused h]
    exact ⟨rfl, rfl⟩
  · rw [advance_of_refused (step_marked hm), State.markRefused, ← hm]

/-! ### A reset (R250, R251) -/

theorem resetEvent_idle {s : State} {n : Nat} {k : Instance} (hk : s.insts[n]? = some k) (hr : k.recOut = none) :
    resetEvent n s = .next { s with insts := s.insts.set n Instance.reset } := by
  simp [resetEvent, hk, busy, hr]

theorem resetEvent_busy {s : State} {n : Nat} {k : Instance} {r : Record} (hk : s.insts[n]? = some k)
    (hr : k.recOut = some r) : resetEvent n s = .fault .resetInProgress := by
  simp [resetEvent, hk, busy, hr]

/-- Settles O55: the reset core is put at the place named, and nothing else is touched. -/
theorem resetEventResetsOneInstance : Obligations.ResetEventResetsOneInstance := by
  intro s n k es hm hp hk hr
  obtain ⟨hlt, -⟩ := List.getElem?_eq_some_iff.mp hk
  have hx := resetEvent_idle (s := { s with pending := es }) hk hr
  exact ⟨_, Instance.reset, (step_reset hm hp).trans hx, List.getElem?_set_self hlt, rfl, rfl, rfl, rfl,
    fun j hj => List.getElem?_set_ne hj.symm, List.length_set, rfl, hm, rfl⟩

/-! ### What is addressed to no core (log 16) -/

section
variable {s : State} {n : Nat}

theorem acceptEvent_missing (h : s.insts.length ≤ n) : acceptEvent n s = .fault .noSuchInstance := by
  simp [acceptEvent, List.getElem?_eq_none h]

theorem resetEvent_missing (h : s.insts.length ≤ n) : resetEvent n s = .fault .noSuchInstance := by
  simp [resetEvent, List.getElem?_eq_none h]

theorem onInst_missing (h : s.insts.length ≤ s.cur) (f : Instance → Host.Outcome State Fault Refusal) :
    onInst s f = .fault .noSuchInstance := by
  simp [onInst, List.getElem?_eq_none h]

theorem exec_missing (h : s.insts.length ≤ s.cur) (i : Instr) : exec i s = .fault .noSuchInstance := by
  cases i <;> exact onInst_missing h _

end

/-- Settles O54: a reset finds its core busy, and everything else finds none. -/
theorem meaninglessEventsFault : Obligations.MeaninglessEventsFault := by
  refine ⟨fun s n k r es hm hp hk hr => ?_, fun s n es hm hn hp => ?_, fun s n bs rest a es i hm hn hp hd => ?_,
    fun s n c a es hm hn hp => ?_, fun s n f a es hm hn hp => ?_, fun s i hn => exec_missing hn i⟩
  · rw [step_reset hm hp]
    exact resetEvent_busy hk hr
  · obtain hp | hp := hp
    · rw [step_accept hm hp]
      exact acceptEvent_missing hn
    · rw [step_reset hm hp]
      exact resetEvent_missing hn
  · rw [step_present hm hp hd]
    exact exec_missing hn i
  · rw [step_emit hm hp]
    exact exec_missing hn _
  · rw [step_arrive hm hp]
    exact exec_missing hn _

end Sys2Proof.Machine
end
